-- ==== Sys2Proof/Word.lean ====
section
/-!
DEFINITION. The widths of the machine (spec 00_scope.md R5, R8): a byte, a 64-bit lane, a 128-bit block.

R10's primitives are the operations Lean gives a bit vector: `a + b` on lanes is `add64`, `a * b` on lanes is
`mul64`, `a + b` on blocks is `add128`, `a ^^^ b` is `xor128`; each wraps modulo its width and sets no flag.
-/

namespace Sys2Proof

/-- Eight bits: the command word, one byte of a block. -/
abbrev Byte := BitVec 8

/-- One 64-bit half of a 128-bit value (R5 `WL`, R8). -/
abbrev Lane := BitVec 64

/-- A state register's content, an output block, the round key, the increment, the operand `DATA` (R5 `W`). -/
abbrev Block := BitVec 128

end Sys2Proof
end

