-- ==== Sys2Proof/Machine/Bytes.lean ====
section
/-!
DEFINITION. Lanes and bytes of a 128-bit value (spec 00_scope.md R8, R9) and its canonical byte layout
(20_memory.md R41).
-/

namespace Sys2Proof.Machine

/-- The low lane, `v.lo = v[63:0]` (R8). -/
def lo (v : Block) : Lane := v.extractLsb' 0 64

/-- The high lane, `v.hi = v[127:64]` (R8). -/
def hi (v : Block) : Lane := v.extractLsb' 64 64

/-- `mk(lo, hi) = hi * 2^64 + lo` (R8). -/
def mk (l h : Lane) : Block := BitVec.ofNat 128 (h.toNat * 2 ^ 64 + l.toNat)

/-- `byte(v, i) = v[8*i+7 : 8*i]` (R9). -/
def byte (v : Block) (i : Nat) : Byte := v.extractLsb' (8 * i) 8

/-- The sixteen bytes of a block, byte 0 first: "little-endian bytes of `(lo, hi)` per block" (R41). -/
def ser (v : Block) : List Byte := (List.range 16).map (byte v)

/-- The block whose bytes are the given ones, byte 0 first; bytes that are not given are zero. -/
def blockOfBytes : List Byte → Block
  | [] => 0
  | b :: bs => (blockOfBytes bs <<< 8) ||| b.setWidth 128

end Sys2Proof.Machine
end

