-- ==== Sys2Proof/Machine/Operands.lean ====
section
/-!
DEFINITION. Operand assembly (spec 30_encoding.md R63): the two immediates, "taken from `DATA` without extension,
scaling or shifting". The register operands are `State.reg` (Machine/Ops.lean); "there is no other operand form and
no addressing mode".
-/

namespace Sys2Proof.Machine

/-- `imm128 = DATA[127:0]` for `SEED`. -/
def seedOperand (data : Block) : Block := data

/-- `n = DATA[63:0]` for `JUMP`; `DATA[127:64]` is ignored. -/
def jumpOperand (data : Block) : Lane := lo data

/-- What an assembler puts in `DATA` for a jump distance: `zext_128(n)` (R80). -/
def jumpData (n : Lane) : Block := mk n 0

end Sys2Proof.Machine
end

