-- ==== Sys2Proof/Syntax.lean ====
section
/-!
DEFINITION. The commands (spec 30_encoding.md R60) as data, and the assembler's lines (R80, R81).
-/

namespace Sys2Proof

/-- The four state registers `s0` to `s3` (10_state.md R20), named by a 2-bit index with no invalid value (R44). -/
inductive SReg
  | s0
  | s1
  | s2
  | s3
  deriving DecidableEq, Repr

/-- The six commands, one constructor per row of spec/opcode_table.json, with the operands each uses (R62, R63).
A command's fields are typed by their widths, so every value of this type is a well-formed command. -/
inductive Instr
  /-- `SEED sd, imm128` (R90). -/
  | seed (sd : SReg) (imm128 : Block)
  /-- `ADV sd, ss` (R101). -/
  | adv (sd ss : SReg)
  /-- `MIX ss` (R133). -/
  | mix (ss : SReg)
  /-- `JUMP sd, ss, n` (R141). -/
  | jump (sd ss : SReg) (n : Lane)
  /-- `PAR sd, ss` (R147). -/
  | par (sd ss : SReg)
  /-- `GET ss` (R92). -/
  | get (ss : SReg)
  deriving DecidableEq, Repr

/-- A command as the core is given it (R61): the command word and the operand, presented together. -/
structure Command where
  /-- `cmd_cw` -/
  cw : Byte
  /-- `cmd_data` -/
  data : Block
  deriving DecidableEq, Repr

/-- One line of the assembler (R80) or pseudo-instruction (R81), with its operands as the numbers that were
written: a register number that names no register, or an immediate that does not fit, can be written here and is
refused by `AsmLine.wellFormed`. -/
inductive AsmLine
  /-- `SEED sd, imm128` -/
  | seed (sd imm128 : Nat)
  /-- `ADV sd, ss` -/
  | adv (sd ss : Nat)
  /-- `MIX ss` -/
  | mix (ss : Nat)
  /-- `JUMP sd, ss, n` -/
  | jump (sd ss n : Nat)
  /-- `PAR sd, ss` -/
  | par (sd ss : Nat)
  /-- `GET ss` -/
  | get (ss : Nat)
  /-- `ADV sd`: the in-place advance -/
  | advInPlace (sd : Nat)
  /-- `JUMP sd, n`: the in-place jump -/
  | jumpInPlace (sd n : Nat)
  /-- `PAR sd`: the in-place derivation -/
  | parInPlace (sd : Nat)
  /-- `MOV sd, ss` -/
  | mov (sd ss : Nat)
  /-- `ZERO sd` -/
  | zero (sd : Nat)
  /-- `SEED sd, lo, hi` -/
  | seedLanes (sd lo hi : Nat)
  /-- `JUMPB sd, ss, n` -/
  | jumpBack (sd ss n : Nat)
  deriving DecidableEq, Repr

end Sys2Proof
end

