-- ==== Sys2Proof/Config.lean ====
section
/-!
DEFINITION. The parameters of a core (spec 00_scope.md R5, R7; 10_state.md R26): what an implementation fixes for
the life of the hardware. The default values, and the constants the spec fixes for every core, are in
Machine/Constants.lean; the constraints of R6 are in WellFormed.lean.
-/

namespace Sys2Proof

/-- The two parameters of R5 that a rule's result depends on. `LAT` is left out: no rule depends on it (R190,
log 15). -/
structure Config where
  /-- IncrementConstant, R5 `INC`: added by the increment engine, lanes `loInc` and `hiInc`. -/
  inc : Block
  /-- RoundKey, R5 `KEY`: the round key of all three rounds of `mix`. -/
  key : Block
  deriving DecidableEq, Repr

end Sys2Proof
end

