-- ==== Sys2Proof/WellFormed.lean ====
section
/-!
DEFINITION. What is well formed: an assembler line whose register numbers and immediates fit their fields
(spec 30_encoding.md R80), and a configuration that meets the constraints of 00_scope.md R6. A command of type
`Instr` is well formed by its type; which command WORDS are legal is the decoder's affair (R69).
-/

namespace Sys2Proof

/-- A register number names one of the four registers (R20, R80). -/
def registerFits (r : Nat) : Bool := r < 4

/-- An immediate fits a block-wide field: `imm128 < 2^128` (R80). -/
def blockFits (v : Nat) : Bool := v < 2 ^ 128

/-- An immediate fits a lane-wide field: `n < 2^64` (R80), `lo`, `hi` `< 2^64` (R81). -/
def laneFits (v : Nat) : Bool := v < 2 ^ 64

/-- "An immediate must fit its field ...; an assembler refuses one that does not" (R80). -/
def AsmLine.wellFormed : AsmLine → Bool
  | .seed sd imm128 => registerFits sd && blockFits imm128
  | .adv sd ss => registerFits sd && registerFits ss
  | .mix ss => registerFits ss
  | .jump sd ss n => registerFits sd && registerFits ss && laneFits n
  | .par sd ss => registerFits sd && registerFits ss
  | .get ss => registerFits ss
  | .advInPlace sd => registerFits sd
  | .jumpInPlace sd n => registerFits sd && laneFits n
  | .parInPlace sd => registerFits sd
  | .mov sd ss => registerFits sd && registerFits ss
  | .zero sd => registerFits sd
  | .seedLanes sd lo hi => registerFits sd && laneFits lo && laneFits hi
  | .jumpBack sd ss n => registerFits sd && registerFits ss && laneFits n

/-- The eight bytes of a lane, least significant first. -/
def laneBytes (l : Lane) : List Byte := (List.range 8).map fun i => l.extractLsb' (8 * i) 8

/-- R6 (a): `INC.lo` is odd, that is `INC[0] = 1`. -/
def Config.incOdd (c : Config) : Bool := c.inc.getLsbD 0

/-- R6 (b), read per lane (92_eei_decisions.md D21): within each lane of `INC` the eight bytes are pairwise
different. -/
def Config.incBytesDistinct (c : Config) : Bool :=
  decide (laneBytes (Machine.lo c.inc)).Nodup && decide (laneBytes (Machine.hi c.inc)).Nodup

/-- A legal configuration (R6). `KEY` is not constrained (R7). -/
def Config.legal (c : Config) : Bool := c.incOdd && c.incBytesDistinct

/-- Binding the parameters of a core: a configuration that does not meet R6 is refused
(93_implementation_defined.md U18). DESIGN CHOICE (log 12). -/
def Config.build (inc key : Block) : Option Config :=
  if Config.legal { inc, key } then some { inc, key } else none

end Sys2Proof
end

