-- ==== Sys2Proof/Decode.lean ====
section
/-!
DEFINITION. Decoding (spec 30_encoding.md R62 to R66, R69), total on every command word and on any bytes, rejecting by
name; then the encoder and the assembler (R62, R64, R80, R81).
-/

namespace Sys2Proof

open Sys2Proof.Machine

/-- Why a command word is illegal: the conditions of R69, each by name. They all get the same response (R165). -/
inductive Illegal
  /-- `op = 0` -/
  | opcodeZero
  /-- `op = 7`, which a model must not give a meaning (R68) -/
  | opcodeSeven
  /-- `z = 1` -/
  | reservedBit
  /-- `SEED` with `ss ≠ 0` -/
  | seedSource
  /-- `MIX` with `sd ≠ 0` -/
  | mixDestination
  /-- `GET` with `sd ≠ 0` -/
  | getDestination
  deriving DecidableEq, Repr

/-- Why bytes spell no command: too few for a record (R64), or an illegal command word. -/
inductive Reject
  /-- fewer than the 17 bytes of a record -/
  | truncated
  /-- the record's command word is illegal -/
  | illegal (why : Illegal)
  deriving DecidableEq, Repr

/-! ## The fields of the command word (R62) -/

/-- `CW[7:5]` -/
def opField (cw : Byte) : BitVec 3 := cw.extractLsb' 5 3

/-- `CW[4]` -/
def zField (cw : Byte) : BitVec 1 := cw.extractLsb' 4 1

/-- `CW[3:2]` -/
def sdField (cw : Byte) : BitVec 2 := cw.extractLsb' 2 2

/-- `CW[1:0]` -/
def ssField (cw : Byte) : BitVec 2 := cw.extractLsb' 0 2

/-- The register a 2-bit index names (R20, R62). -/
def registerOf (index : BitVec 2) : SReg :=
  match index.toNat with
  | 0 => .s0
  | 1 => .s1
  | 2 => .s2
  | _ => .s3

/-- The 2-bit index of a register. -/
def registerIndex : SReg → BitVec 2
  | .s0 => 0
  | .s1 => 1
  | .s2 => 2
  | .s3 => 3

/-! ## Decoding -/

/-- Decoding of a command (R66) with its operands assembled (R63). `DATA` takes no part in choosing the command. -/
def decode (cw : Byte) (data : Block) : Except Illegal Instr :=
  let sd := registerOf (sdField cw)
  let ss := registerOf (ssField cw)
  if zField cw ≠ 0 then .error .reservedBit
  else match (opField cw).toNat with
    | 0 => .error .opcodeZero
    | 1 => if ssField cw = 0 then .ok (.seed sd (seedOperand data)) else .error .seedSource
    | 2 => .ok (.adv sd ss)
    | 3 => if sdField cw = 0 then .ok (.mix ss) else .error .mixDestination
    | 4 => .ok (.jump sd ss (jumpOperand data))
    | 5 => .ok (.par sd ss)
    | 6 => if sdField cw = 0 then .ok (.get ss) else .error .getDestination
    | _ => .error .opcodeSeven

/-- Decoding of a command. -/
def decodeCommand (c : Command) : Except Illegal Instr := decode c.cw c.data

/-- The bytes of `DATA` in a record (R64). -/
def dataBytes : Nat := 16

/-- The command a 17-byte record spells (R64) and the bytes after it. -/
def commandOfBytes : List Byte → Option (Command × List Byte)
  | [] => none
  | cw :: rest =>
    if dataBytes ≤ rest.length then
      some ({ cw, data := blockOfBytes (rest.take dataBytes) }, rest.drop dataBytes)
    else none

/-- Decoding of any bytes: the first record's command and the bytes after it, or the reason by name. -/
def decodeBytes (bytes : List Byte) : Except Reject (Instr × List Byte) :=
  match commandOfBytes bytes with
  | none => .error .truncated
  | some (c, rest) =>
    match decodeCommand c with
    | .ok i => .ok (i, rest)
    | .error why => .error (.illegal why)

/-! ## Encoding -/

/-- `CW = op * 32 + z * 16 + sd * 4 + ss` with `z = 0` (R62). -/
def commandWord (op : BitVec 3) (sd ss : BitVec 2) : Byte :=
  BitVec.ofNat 8 (op.toNat * 32 + sd.toNat * 4 + ss.toNat)

/-- The command word of an instruction: its opcode (R60), the fields it uses, zero in those it does not (R62). -/
def encodeWord : Instr → Byte
  | .seed sd _ => commandWord 1 (registerIndex sd) 0
  | .adv sd ss => commandWord 2 (registerIndex sd) (registerIndex ss)
  | .mix ss => commandWord 3 0 (registerIndex ss)
  | .jump sd ss _ => commandWord 4 (registerIndex sd) (registerIndex ss)
  | .par sd ss => commandWord 5 (registerIndex sd) (registerIndex ss)
  | .get ss => commandWord 6 0 (registerIndex ss)

/-- The operand of an instruction; zero where the command ignores `DATA` (R80). -/
def encodeData : Instr → Block
  | .seed _ imm128 => imm128
  | .adv _ _ => 0
  | .mix _ => 0
  | .jump _ _ n => jumpData n
  | .par _ _ => 0
  | .get _ => 0

/-- The command an assembler emits for an instruction (R80). -/
def encode (i : Instr) : Command := { cw := encodeWord i, data := encodeData i }

/-- The 17-byte record of a command: the command word, then `DATA` low byte first (R64). -/
def recordOf (c : Command) : List Byte := c.cw :: ser c.data

/-- The record of an instruction. -/
def encodeBytes (i : Instr) : List Byte := recordOf (encode i)

/-! ## The assembler (R80, R81) -/

/-- The register a register number names. -/
def registerNumbered (r : Nat) : SReg := registerOf (BitVec.ofNat 2 r)

/-- The one command a line stands for (R80), a pseudo-instruction's by its expansion (R81). -/
def expand : AsmLine → Instr
  | .seed sd imm128 => .seed (registerNumbered sd) (BitVec.ofNat 128 imm128)
  | .adv sd ss => .adv (registerNumbered sd) (registerNumbered ss)
  | .mix ss => .mix (registerNumbered ss)
  | .jump sd ss n => .jump (registerNumbered sd) (registerNumbered ss) (BitVec.ofNat 64 n)
  | .par sd ss => .par (registerNumbered sd) (registerNumbered ss)
  | .get ss => .get (registerNumbered ss)
  | .advInPlace sd => .adv (registerNumbered sd) (registerNumbered sd)
  | .jumpInPlace sd n => .jump (registerNumbered sd) (registerNumbered sd) (BitVec.ofNat 64 n)
  | .parInPlace sd => .par (registerNumbered sd) (registerNumbered sd)
  | .mov sd ss => .jump (registerNumbered sd) (registerNumbered ss) 0
  | .zero sd => .seed (registerNumbered sd) 0
  | .seedLanes sd l h => .seed (registerNumbered sd) (BitVec.ofNat 128 (h * 2 ^ 64 + l))
  | .jumpBack sd ss n =>
    .jump (registerNumbered sd) (registerNumbered ss) (BitVec.ofNat 64 ((2 ^ 64 - n) % 2 ^ 64))

/-- The assembler: a line that is not well formed is refused (R80). -/
def assemble (line : AsmLine) : Option Command :=
  if line.wellFormed then some (encode (expand line)) else none

/-! ## The numbering of spec/opcode_table.json -/

/-- The command whose record, as one number with the command word in its least significant byte, has the low
`nbits` bits of `w` and zeros above them. -/
def commandOfTableWord (nbits w : Nat) : Command :=
  { cw := BitVec.ofNat 8 (w % 2 ^ nbits), data := BitVec.ofNat 128 (w % 2 ^ nbits / 2 ^ 8) }

/-- What the decoder reads from an instruction whose bits are `w`, numbered as the opcode table numbers them: the
record is laid out as bytes and given to the decoder. -/
def decodeTableWord (nbits w : Nat) : Option Instr :=
  match decodeBytes (recordOf (commandOfTableWord nbits w)) with
  | .ok (i, _) => some i
  | .error _ => none

end Sys2Proof
end

