-- ==== Sys2Proof/Machine/Constants.lean ====
section
/-!
DEFINITION. The values of the constants of a core (spec 00_scope.md R5; 10_state.md R26).
-/

namespace Sys2Proof.Machine

/-- The default of `INC` (R5, 92_eei_decisions.md D3). PRESUMED (log 2): from general knowledge. -/
def defaultInc : Block := 0x2F2B29251F1D1713110D0B0705030201#128

/-- The default configuration: `KEY = INC` (R5, D4). -/
def defaultConfig : Config := { inc := defaultInc, key := defaultInc }

/-- `LCG_A = 6364136223846793005` (R5, R146). UNVERIFIED (log 20): the literal is unaudited. -/
def lcgA : Lane := 0x5851F42D4C957F2D#64

/-- `LCG_C = 1442695040888963407` (R5, R146). UNVERIFIED (log 20). -/
def lcgC : Lane := 0x14057B7EF767814F#64

end Sys2Proof.Machine
end

