-- ==== Sys2Proof/Machine/State.lean ====
section
/-!
DEFINITION. The state of one core with its response channel (spec 00_scope.md R12; 10_state.md R20, R31) and, beside
it, the host's side of the ports as plain data (log 4, log 5). There is no memory: "A model must not give the core a
memory" (20_memory.md R40).
-/

namespace Sys2Proof.Machine

/-- What an accepted command gets, exactly one (30_encoding.md R70). -/
structure Response where
  /-- `ERR`: 1 means `IllegalCommand`, and there is no other code (60_exceptions.md R160). -/
  err : Bool
  /-- `D0` -/
  d0 : Block
  /-- `D1` -/
  d1 : Block
  deriving DecidableEq, Repr

/-- One move of the host on the ports (30_encoding.md R72). DESIGN CHOICE (log 4). -/
inductive HostMove
  /-- hold `cmd_valid` with this command until it is accepted -/
  | command (c : Command)
  /-- `rsp_ready`: take the response that is presented -/
  | take
  /-- drive the reset input high or low -/
  | rst (level : Bool)
  deriving DecidableEq, Repr

/-- One core, its ports and its host. -/
structure State where
  /-- The parameters, "immutable for the life of the hardware" (00_scope.md R7). The spec keeps them in the
  configuration record, not in the state (10_state.md R26); they stand here because `exec` has no other argument to
  carry them (log 1), and no step changes them. -/
  cfg : Config
  /-- S[0] -/
  s0 : Block
  /-- S[1] -/
  s1 : Block
  /-- S[2] -/
  s2 : Block
  /-- S[3] -/
  s3 : Block
  /-- The response presented and not yet taken: `rsp_err`, `rsp_d0`, `rsp_d1`, and `rsp_valid` is its presence. -/
  rsp : Option Response
  /-- The level of the input `rst`. -/
  rst : Bool
  /-- The host's moves still to come, next first (log 4). -/
  script : List HostMove
  /-- The responses the host has taken, oldest first (log 5). -/
  received : List Response
  deriving DecidableEq, Repr

/-- Why the machine stops with a fault: there is no such reason. "The core has no recoverable error conditions" and
nothing but `IllegalCommand` faults (60_exceptions.md R162), which is a response and not a stop (R160). DEDUCED
(log 18), safe. -/
inductive Fault
  deriving DecidableEq, Repr

/-- Why an instruction is refused. -/
inductive Refusal
  /-- An instruction without a meaning, raised by its arm of `exec` alone; no arm raises it. Safe. -/
  | notModelled (mnemonic : String)
  deriving DecidableEq, Repr

/-- What one step, or one command, answers. -/
abbrev Result := Host.Outcome State Fault Refusal

/-- The machine right after reset: every state register zero (10_state.md R22), no response presented and `rst` low
again (70_reset_and_hazards.md R181), the default configuration (log 2), a host that has scripted nothing (log 11). -/
def State.reset : State :=
  { cfg := defaultConfig
    s0 := 0
    s1 := 0
    s2 := 0
    s3 := 0
    rsp := none
    rst := false
    script := []
    received := [] }

end Sys2Proof.Machine
end

