-- ==== Sys2Proof/Machine/Ops.lean ====
section
/-!
DEFINITION. The shared operations: reading and writing a state register, responding, the one exception, and the
moves on the ports (spec 00_scope.md R11; 10_state.md R31; 30_encoding.md R70 to R72; 60_exceptions.md R160;
70_reset_and_hazards.md R180, R181).
-/

namespace Sys2Proof.Machine

/-! ## State registers -/

/-- `S[i]` (R11): a read of the whole register, without side effect (20_memory.md R45). -/
def State.reg (s : State) : SReg → Block
  | .s0 => s.s0
  | .s1 => s.s1
  | .s2 => s.s2
  | .s3 => s.s3

/-- `S[i] <- v` (R11): a write of both lanes at once (10_state.md R20). -/
def State.setReg (s : State) (i : SReg) (v : Block) : State :=
  match i with
  | .s0 => { s with s0 := v }
  | .s1 => { s with s1 := v }
  | .s2 => { s with s2 := v }
  | .s3 => { s with s3 := v }

/-! ## Updates of the other fields -/

/-- The state with this response presented, or none. -/
def State.withRsp (s : State) (r : Option Response) : State := { s with rsp := r }

/-- The state with `rst` at this level. -/
def State.withRst (s : State) (level : Bool) : State := { s with rst := level }

/-- The state with these moves of the host still to come. -/
def State.withScript (s : State) (moves : List HostMove) : State := { s with script := moves }

/-- The state with one more response in the host's hands. -/
def State.withTaken (s : State) (r : Response) : State := { s with received := s.received ++ [r] }

/-- The state with every register zero. -/
def State.zeroRegs (s : State) : State := { s with s0 := 0, s1 := 0, s2 := 0, s3 := 0 }

/-! ## Completing a command -/

/-- The response of a command that completes (R70). -/
def okResponse (d0 d1 : Block) : Response := { err := false, d0, d1 }

/-- The response of an illegal command (R70, R160). -/
def illegalResponse : Response := { err := true, d0 := 0, d1 := 0 }

/-- `respond(d0, d1)` (R11): the command completes with `ERR = 0`. -/
def respond (d0 d1 : Block) (s : State) : Result := .next (s.withRsp (some (okResponse d0 d1)))

/-- `raise IllegalCommand(cw)` (R160): no register is written, the response is `(1, 0, 0)`, and nothing is recorded,
"not the offending command word"; so the operation takes no argument but the state. There is no handler, no saved
state and no return (R166, R167). -/
def raiseIllegalCommand (s : State) : Result := .next (s.withRsp (some illegalResponse))

/-! ## The ports -/

/-- `rsp_valid` (R31): a response is presented and not yet taken. -/
def rspValid (s : State) : Bool := s.rsp.isSome

/-- `cmd_ready` (R31): low while `rst` is high (R181) and from the acceptance of a command until its response has
been taken (R72). -/
def cmdReady (s : State) : Bool := !s.rst && s.rsp.isNone

/-- The effect of reset (R180): all registers zero (R22), a response not yet taken is withdrawn. -/
def takeReset (s : State) : State := s.zeroRegs.withRsp none

/-- The host drives `rst`: high, the core is reset (R180); low, it is released (R181; log 9). -/
def driveRst (level : Bool) (s : State) : State :=
  match level with
  | true => takeReset (s.withRst true)
  | false => s.withRst false

/-- The host takes the response (R31, R72). With none presented, nothing is taken. DESIGN CHOICE (log 8). -/
def takeResponse (s : State) : State :=
  match s.rsp with
  | some r => (s.withTaken r).withRsp none
  | none => s

/-- What happens next at the ports. -/
inductive Move
  /-- nothing: the core holds its registers (R173) and waits -/
  | wait
  /-- a move of the host by which no command is accepted -/
  | host (s : State)
  /-- the command is accepted (R31), `cmd_cw` and `cmd_data` sampled (R71) -/
  | accept (c : Command) (s : State)

/-- The next move of the host and what the core does with it. A command waits, held steady by the host, while
`cmd_ready` is low (R72); a host that never takes the response waits for ever (log 7). -/
def nextMove (s : State) : Move :=
  match s.script with
  | [] => .wait
  | .rst level :: rest => .host (driveRst level (s.withScript rest))
  | .take :: rest => .host (takeResponse (s.withScript rest))
  | .command c :: rest => if cmdReady s then .accept c (s.withScript rest) else .wait

/-- The state in which the host presents a command that the core can accept at once. -/
def presentCommand (c : Command) (s : State) : State :=
  ((s.withRsp none).withRst false).withScript (.command c :: s.script)

/-- The moves of a host that presents a list of commands and takes each response (R24, R72). -/
def hostProgram (cs : List Command) : List HostMove := cs.flatMap fun c => [.command c, .take]

end Sys2Proof.Machine
end

