-- ==== Sys2Proof/Machine/Derive.lean ====
section
/-!
DEFINITION. Stream derivation and the commands JUMP and PAR (spec 44_stream_derivation.md).
-/

namespace Sys2Proof.Machine

/-- `jump(s, n)` (R140): each lane by itself; "cross-lane carry from the jump multiplication itself is NOT
propagated". It is not made to agree with `advance` (90_conflicts.md C1). -/
def jump (cfg : Config) (s : Block) (n : Lane) : Block :=
  mk (lo s + lo cfg.inc * n) (hi s + hi cfg.inc * n)

/-- The number of times the low lane wraps in `n` increments from low lane `l` (R145). -/
def carries (cfg : Config) (l : Lane) (n : Nat) : Nat := (l.toNat + n * (lo cfg.inc).toNat) / 2 ^ 64

/-- `parallel(s)` (R146): the high lane through one linear-congruential step, the low lane kept. -/
def parallel (s : Block) : Block := mk (lo s) (lcgA * hi s + lcgC)

/-- `JUMP sd, ss, n` (R141). -/
def execJump (sd ss : SReg) (n : Lane) (s : State) : Result :=
  respond 0 0 (s.setReg sd (jump s.cfg (s.reg ss) n))

/-- `PAR sd, ss` (R147). -/
def execPar (sd ss : SReg) (s : State) : Result := respond 0 0 (s.setReg sd (parallel (s.reg ss)))

end Sys2Proof.Machine
end

