-- ==== Sys2Proof/Machine/Flags.lean ====
section
/-!
DEFINITION. "The core has no status flags, no condition codes and no predicates" (spec 10_state.md R25). The one
carry that goes anywhere is that out of bit 63 in `advance`, which "goes into the high lane and nowhere else".
-/

namespace Sys2Proof.Machine

/-- `c = 1 if sum_lo >= 2^64 else 0`: the carry out of a sum of two lanes (41_increment.md R100). -/
def laneCarry (a b : Lane) : Bool := 2 ^ 64 ≤ a.toNat + b.toNat

/-- The carry as the number added to the high lane. -/
def carryLane (c : Bool) : Lane := if c then 1 else 0

end Sys2Proof.Machine
end

