-- ==== Sys2Proof/Machine/Increment.lean ====
section
/-!
DEFINITION. The increment engine and the command ADV (spec 41_increment.md).
-/

namespace Sys2Proof.Machine

/-- One addition of a fixed constant at any width: at 128 bits the increment engine, at smaller widths the
reduced-width analog of R106, which is "a test device only". -/
def addStep {w : Nat} (inc s : BitVec w) : BitVec w := s + inc

/-- `advance(s) = add128(s, INC)` (R100). -/
def advance (cfg : Config) (s : Block) : Block := addStep cfg.inc s

/-- The same function in lanes, as R100 writes it: the carry out of the low lane goes into the high lane, that out
of the high lane is discarded. -/
def advanceLanes (cfg : Config) (s : Block) : Block :=
  let c := laneCarry (lo s) (lo cfg.inc)
  mk (lo s + lo cfg.inc) (hi s + hi cfg.inc + carryLane c)

/-- `ADV sd, ss` (R101): exactly one step of the engine. -/
def execAdv (sd ss : SReg) (s : State) : Result := respond 0 0 (s.setReg sd (advance s.cfg (s.reg ss)))

end Sys2Proof.Machine
end

