-- ==== Sys2Proof/Machine/Aes.lean ====
section
/-!
DEFINITION. The AES round primitives (spec 42_aes_round.md R110 to R119). UNVERIFIED (log 3): the spec supplies all of
this from general knowledge (93_implementation_defined.md G1 to G3, 92_eei_decisions.md D5 to D7).
-/

namespace Sys2Proof.Machine

/-! ## Field arithmetic (R112) -/

/-- Multiplication by 2 in GF(2^8) with reduction polynomial `0x11B`. -/
def xtime (a : Byte) : Byte := (a <<< 1) ^^^ (if a.getLsbD 7 then 0x1B else 0)

def mul2 (a : Byte) : Byte := xtime a
def mul3 (a : Byte) : Byte := xtime a ^^^ a
def mul4 (a : Byte) : Byte := xtime (xtime a)
def mul8 (a : Byte) : Byte := xtime (mul4 a)
def mul9 (a : Byte) : Byte := mul8 a ^^^ a
def mul11 (a : Byte) : Byte := mul8 a ^^^ mul2 a ^^^ a
def mul13 (a : Byte) : Byte := mul8 a ^^^ mul4 a ^^^ a
def mul14 (a : Byte) : Byte := mul8 a ^^^ mul4 a ^^^ mul2 a

/-- The product of `a` with the polynomial of the low `k` bits of `b`. -/
def fieldMulBits : Nat → Byte → Byte → Byte
  | 0, _, _ => 0
  | k + 1, a, b => (if b.getLsbD 0 then a else 0) ^^^ fieldMulBits k (xtime a) (b >>> 1)

/-- Multiplication in the field of R112; R113 defines `SBOX` through its inverses. -/
def fieldMul (a b : Byte) : Byte := fieldMulBits 8 a b

/-- The affine map of R113. -/
def affine (b : Byte) : Byte :=
  b ^^^ b.rotateLeft 1 ^^^ b.rotateLeft 2 ^^^ b.rotateLeft 3 ^^^ b.rotateLeft 4 ^^^ 0x63

/-! ## The substitution tables (R113, R114): row = high hexadecimal digit, column = low hexadecimal digit -/

/-- The rows of `SBOX` (R113). -/
def sboxRows : List (List Byte) :=
  [[0x63, 0x7C, 0x77, 0x7B, 0xF2, 0x6B, 0x6F, 0xC5, 0x30, 0x01, 0x67, 0x2B, 0xFE, 0xD7, 0xAB, 0x76],
   [0xCA, 0x82, 0xC9, 0x7D, 0xFA, 0x59, 0x47, 0xF0, 0xAD, 0xD4, 0xA2, 0xAF, 0x9C, 0xA4, 0x72, 0xC0],
   [0xB7, 0xFD, 0x93, 0x26, 0x36, 0x3F, 0xF7, 0xCC, 0x34, 0xA5, 0xE5, 0xF1, 0x71, 0xD8, 0x31, 0x15],
   [0x04, 0xC7, 0x23, 0xC3, 0x18, 0x96, 0x05, 0x9A, 0x07, 0x12, 0x80, 0xE2, 0xEB, 0x27, 0xB2, 0x75],
   [0x09, 0x83, 0x2C, 0x1A, 0x1B, 0x6E, 0x5A, 0xA0, 0x52, 0x3B, 0xD6, 0xB3, 0x29, 0xE3, 0x2F, 0x84],
   [0x53, 0xD1, 0x00, 0xED, 0x20, 0xFC, 0xB1, 0x5B, 0x6A, 0xCB, 0xBE, 0x39, 0x4A, 0x4C, 0x58, 0xCF],
   [0xD0, 0xEF, 0xAA, 0xFB, 0x43, 0x4D, 0x33, 0x85, 0x45, 0xF9, 0x02, 0x7F, 0x50, 0x3C, 0x9F, 0xA8],
   [0x51, 0xA3, 0x40, 0x8F, 0x92, 0x9D, 0x38, 0xF5, 0xBC, 0xB6, 0xDA, 0x21, 0x10, 0xFF, 0xF3, 0xD2]] ++
  [[0xCD, 0x0C, 0x13, 0xEC, 0x5F, 0x97, 0x44, 0x17, 0xC4, 0xA7, 0x7E, 0x3D, 0x64, 0x5D, 0x19, 0x73],
   [0x60, 0x81, 0x4F, 0xDC, 0x22, 0x2A, 0x90, 0x88, 0x46, 0xEE, 0xB8, 0x14, 0xDE, 0x5E, 0x0B, 0xDB],
   [0xE0, 0x32, 0x3A, 0x0A, 0x49, 0x06, 0x24, 0x5C, 0xC2, 0xD3, 0xAC, 0x62, 0x91, 0x95, 0xE4, 0x79],
   [0xE7, 0xC8, 0x37, 0x6D, 0x8D, 0xD5, 0x4E, 0xA9, 0x6C, 0x56, 0xF4, 0xEA, 0x65, 0x7A, 0xAE, 0x08],
   [0xBA, 0x78, 0x25, 0x2E, 0x1C, 0xA6, 0xB4, 0xC6, 0xE8, 0xDD, 0x74, 0x1F, 0x4B, 0xBD, 0x8B, 0x8A],
   [0x70, 0x3E, 0xB5, 0x66, 0x48, 0x03, 0xF6, 0x0E, 0x61, 0x35, 0x57, 0xB9, 0x86, 0xC1, 0x1D, 0x9E],
   [0xE1, 0xF8, 0x98, 0x11, 0x69, 0xD9, 0x8E, 0x94, 0x9B, 0x1E, 0x87, 0xE9, 0xCE, 0x55, 0x28, 0xDF],
   [0x8C, 0xA1, 0x89, 0x0D, 0xBF, 0xE6, 0x42, 0x68, 0x41, 0x99, 0x2D, 0x0F, 0xB0, 0x54, 0xBB, 0x16]]

/-- The rows of `INV_SBOX` (R114). -/
def invSboxRows : List (List Byte) :=
  [[0x52, 0x09, 0x6A, 0xD5, 0x30, 0x36, 0xA5, 0x38, 0xBF, 0x40, 0xA3, 0x9E, 0x81, 0xF3, 0xD7, 0xFB],
   [0x7C, 0xE3, 0x39, 0x82, 0x9B, 0x2F, 0xFF, 0x87, 0x34, 0x8E, 0x43, 0x44, 0xC4, 0xDE, 0xE9, 0xCB],
   [0x54, 0x7B, 0x94, 0x32, 0xA6, 0xC2, 0x23, 0x3D, 0xEE, 0x4C, 0x95, 0x0B, 0x42, 0xFA, 0xC3, 0x4E],
   [0x08, 0x2E, 0xA1, 0x66, 0x28, 0xD9, 0x24, 0xB2, 0x76, 0x5B, 0xA2, 0x49, 0x6D, 0x8B, 0xD1, 0x25],
   [0x72, 0xF8, 0xF6, 0x64, 0x86, 0x68, 0x98, 0x16, 0xD4, 0xA4, 0x5C, 0xCC, 0x5D, 0x65, 0xB6, 0x92],
   [0x6C, 0x70, 0x48, 0x50, 0xFD, 0xED, 0xB9, 0xDA, 0x5E, 0x15, 0x46, 0x57, 0xA7, 0x8D, 0x9D, 0x84],
   [0x90, 0xD8, 0xAB, 0x00, 0x8C, 0xBC, 0xD3, 0x0A, 0xF7, 0xE4, 0x58, 0x05, 0xB8, 0xB3, 0x45, 0x06],
   [0xD0, 0x2C, 0x1E, 0x8F, 0xCA, 0x3F, 0x0F, 0x02, 0xC1, 0xAF, 0xBD, 0x03, 0x01, 0x13, 0x8A, 0x6B]] ++
  [[0x3A, 0x91, 0x11, 0x41, 0x4F, 0x67, 0xDC, 0xEA, 0x97, 0xF2, 0xCF, 0xCE, 0xF0, 0xB4, 0xE6, 0x73],
   [0x96, 0xAC, 0x74, 0x22, 0xE7, 0xAD, 0x35, 0x85, 0xE2, 0xF9, 0x37, 0xE8, 0x1C, 0x75, 0xDF, 0x6E],
   [0x47, 0xF1, 0x1A, 0x71, 0x1D, 0x29, 0xC5, 0x89, 0x6F, 0xB7, 0x62, 0x0E, 0xAA, 0x18, 0xBE, 0x1B],
   [0xFC, 0x56, 0x3E, 0x4B, 0xC6, 0xD2, 0x79, 0x20, 0x9A, 0xDB, 0xC0, 0xFE, 0x78, 0xCD, 0x5A, 0xF4],
   [0x1F, 0xDD, 0xA8, 0x33, 0x88, 0x07, 0xC7, 0x31, 0xB1, 0x12, 0x10, 0x59, 0x27, 0x80, 0xEC, 0x5F],
   [0x60, 0x51, 0x7F, 0xA9, 0x19, 0xB5, 0x4A, 0x0D, 0x2D, 0xE5, 0x7A, 0x9F, 0x93, 0xC9, 0x9C, 0xEF],
   [0xA0, 0xE0, 0x3B, 0x4D, 0xAE, 0x2A, 0xF5, 0xB0, 0xC8, 0xEB, 0xBB, 0x3C, 0x83, 0x53, 0x99, 0x61],
   [0x17, 0x2B, 0x04, 0x7E, 0xBA, 0x77, 0xD6, 0x26, 0xE1, 0x69, 0x14, 0x63, 0x55, 0x21, 0x0C, 0x7D]]

/-- The entry of a table of sixteen rows at a byte. -/
def tableAt (rows : List (List Byte)) (a : Byte) : Byte :=
  (rows.getD (a.toNat / 16) []).getD (a.toNat % 16) 0

/-- `SBOX[a]` (R113). -/
def sbox (a : Byte) : Byte := tableAt sboxRows a

/-- `INV_SBOX[a]` (R114). -/
def invSbox (a : Byte) : Byte := tableAt invSboxRows a

/-! ## The AES state (R111) -/

/-- One column: its four rows, row `r` in `a<r>`. -/
structure Column where
  a0 : Byte
  a1 : Byte
  a2 : Byte
  a3 : Byte
  deriving DecidableEq, Repr

/-- The 4 by 4 byte state, column `c` in `c<c>`. -/
structure AesState where
  c0 : Column
  c1 : Column
  c2 : Column
  c3 : Column
  deriving DecidableEq, Repr

/-- Byte `i` of the value is the state byte in row `i mod 4` and column `i div 4` (R111). -/
def aesState (v : Block) : AesState :=
  { c0 := ⟨byte v 0, byte v 1, byte v 2, byte v 3⟩
    c1 := ⟨byte v 4, byte v 5, byte v 6, byte v 7⟩
    c2 := ⟨byte v 8, byte v 9, byte v 10, byte v 11⟩
    c3 := ⟨byte v 12, byte v 13, byte v 14, byte v 15⟩ }

/-- The four bytes of a column, row 0 first. -/
def columnBytes (c : Column) : List Byte := [c.a0, c.a1, c.a2, c.a3]

/-- The bytes of the state in the order of R111: state byte `(r, c)` is byte `4*c + r`. -/
def aesBytes (x : AesState) : List Byte :=
  columnBytes x.c0 ++ columnBytes x.c1 ++ columnBytes x.c2 ++ columnBytes x.c3

/-- The 128-bit value of a state. -/
def aesBlock (x : AesState) : Block := blockOfBytes (aesBytes x)

/-! ## The four steps and their inverses (R115 to R117) -/

/-- A map of bytes on each byte of a column. -/
def mapColumn (f : Byte → Byte) (c : Column) : Column := ⟨f c.a0, f c.a1, f c.a2, f c.a3⟩

/-- A map of columns on each column of a state. -/
def mapColumns (f : Column → Column) (x : AesState) : AesState := ⟨f x.c0, f x.c1, f x.c2, f x.c3⟩

/-- `SubBytes(b)[i] = SBOX[b[i]]` (R115). -/
def subBytes (x : AesState) : AesState := mapColumns (mapColumn sbox) x

/-- `InvSubBytes(b)[i] = INV_SBOX[b[i]]` (R115). -/
def invSubBytes (x : AesState) : AesState := mapColumns (mapColumn invSbox) x

/-- Row `r` rotated left by `r` columns (R116). -/
def shiftRows (x : AesState) : AesState :=
  { c0 := ⟨x.c0.a0, x.c1.a1, x.c2.a2, x.c3.a3⟩
    c1 := ⟨x.c1.a0, x.c2.a1, x.c3.a2, x.c0.a3⟩
    c2 := ⟨x.c2.a0, x.c3.a1, x.c0.a2, x.c1.a3⟩
    c3 := ⟨x.c3.a0, x.c0.a1, x.c1.a2, x.c2.a3⟩ }

/-- Row `r` rotated right by `r` columns (R116). -/
def invShiftRows (x : AesState) : AesState :=
  { c0 := ⟨x.c0.a0, x.c3.a1, x.c2.a2, x.c1.a3⟩
    c1 := ⟨x.c1.a0, x.c0.a1, x.c3.a2, x.c2.a3⟩
    c2 := ⟨x.c2.a0, x.c1.a1, x.c0.a2, x.c3.a3⟩
    c3 := ⟨x.c3.a0, x.c2.a1, x.c1.a2, x.c0.a3⟩ }

/-- One column under `MixColumns` (R117). -/
def mixColumn (c : Column) : Column :=
  { a0 := mul2 c.a0 ^^^ mul3 c.a1 ^^^ c.a2 ^^^ c.a3
    a1 := c.a0 ^^^ mul2 c.a1 ^^^ mul3 c.a2 ^^^ c.a3
    a2 := c.a0 ^^^ c.a1 ^^^ mul2 c.a2 ^^^ mul3 c.a3
    a3 := mul3 c.a0 ^^^ c.a1 ^^^ c.a2 ^^^ mul2 c.a3 }

/-- One column under `InvMixColumns` (R117). -/
def invMixColumn (c : Column) : Column :=
  { a0 := mul14 c.a0 ^^^ mul11 c.a1 ^^^ mul13 c.a2 ^^^ mul9 c.a3
    a1 := mul9 c.a0 ^^^ mul14 c.a1 ^^^ mul11 c.a2 ^^^ mul13 c.a3
    a2 := mul13 c.a0 ^^^ mul9 c.a1 ^^^ mul14 c.a2 ^^^ mul11 c.a3
    a3 := mul11 c.a0 ^^^ mul13 c.a1 ^^^ mul9 c.a2 ^^^ mul14 c.a3 }

/-- `MixColumns` (R117). -/
def mixColumns (x : AesState) : AesState := mapColumns mixColumn x

/-- `InvMixColumns` (R117). -/
def invMixColumns (x : AesState) : AesState := mapColumns invMixColumn x

/-! ## The two round primitives -/

/-- `ENC_ROUND(v, k) = MixColumns(SubBytes(ShiftRows(v))) XOR k` (R118). -/
def encRound (v k : Block) : Block :=
  aesBlock (mixColumns (subBytes (shiftRows (aesState v)))) ^^^ k

/-- `DEC_ROUND(v, k) = InvMixColumns(InvSubBytes(InvShiftRows(v))) XOR k` (R119): not the inverse of `encRound`. -/
def decRound (v k : Block) : Block :=
  aesBlock (invMixColumns (invSubBytes (invShiftRows (aesState v)))) ^^^ k

end Sys2Proof.Machine
end

