-- ==== Sys2Proof/Machine/Mix.lean ====
section
/-!
DEFINITION. The mixing function and the command MIX (spec 43_mix.md), the canonical bytes of its output and the
canonical stream of a run of commands (20_memory.md R42).
-/

namespace Sys2Proof.Machine

/-- The intermediate value of `mix` (R130); not an output and not kept (R131). -/
def penultimate (cfg : Config) (s : Block) : Block := encRound s cfg.key

/-- `blockA` (R130): a second AES-encrypt round. -/
def blockA (cfg : Config) (s : Block) : Block := encRound (penultimate cfg s) cfg.key

/-- `blockB` (R130): an AES-decrypt round of the same intermediate value. -/
def blockB (cfg : Config) (s : Block) : Block := decRound (penultimate cfg s) cfg.key

/-- `mix(s) = (blockA, blockB)` (R130). -/
def mix (cfg : Config) (s : Block) : Block × Block := (blockA cfg s, blockB cfg s)

/-- `MIX ss` (R133): `D0 = blockA`, `D1 = blockB`; no register is written, so the state does not advance. -/
def execMix (ss : SReg) (s : State) : Result :=
  respond (mix s.cfg (s.reg ss)).1 (mix s.cfg (s.reg ss)).2 s

/-- The canonical 32 bytes of one MIX: `ser(blockA)` followed by `ser(blockB)` (R42). Turning blocks into bytes is
the harness's job, not a step of the core (R41). -/
def outputBytes (r : Response) : List Byte := ser r.d0 ++ ser r.d1

/-- What an instruction with this response adds to the canonical stream: its 32 bytes if it is a MIX. The responses of
the others carry no output block (R42). -/
def streamPart : Instr → Response → List Byte
  | .seed _ _, _ => []
  | .adv _ _, _ => []
  | .mix _, r => outputBytes r
  | .jump _ _ _, _ => []
  | .par _ _, _ => []
  | .get _, _ => []

/-- What a command with this response adds to the canonical stream; an illegal command adds nothing. -/
def commandPart (c : Command) (r : Response) : List Byte :=
  match decodeCommand c with
  | .ok i => streamPart i r
  | .error _ => []

/-- The canonical stream of a run: of its commands in the order they were accepted, with the responses they got, the
bytes of the MIX commands (R42). Responses come in the order of the commands (R48); a command without a response adds
nothing (log 21). -/
def streamBytes : List Command → List Response → List Byte
  | c :: cs, r :: rs => commandPart c r ++ streamBytes cs rs
  | [], _ => []
  | _ :: _, [] => []

end Sys2Proof.Machine
end

