-- ==== Sys2Proof/Machine/Transfer.lean ====
section
/-!
DEFINITION. The state-movement commands SEED and GET (spec 40_seed_get.md).
-/

namespace Sys2Proof.Machine

/-- `SEED sd, imm128` (R90): the register holds exactly the bits presented. -/
def execSeed (sd : SReg) (imm128 : Block) (s : State) : Result := respond 0 0 (s.setReg sd imm128)

/-- `GET ss` (R92): the value is returned bit for bit, and nothing is written. -/
def execGet (ss : SReg) (s : State) : Result := respond (s.reg ss) 0 s

end Sys2Proof.Machine
end

