-- ==== Sys2Proof/Machine/Dispatch.lean ====
section
/-!
DEFINITION. One arm per command (spec 30_encoding.md R60): what a decoded command does to the state.
-/

namespace Sys2Proof.Machine

def exec (i : Instr) (s : State) : Host.Outcome State Fault Refusal :=
  match i with
  | .seed sd imm128 => Sys2Proof.Machine.execSeed sd imm128 s
  | .adv sd ss => Sys2Proof.Machine.execAdv sd ss s
  | .mix ss => Sys2Proof.Machine.execMix ss s
  | .jump sd ss n => Sys2Proof.Machine.execJump sd ss n s
  | .par sd ss => Sys2Proof.Machine.execPar sd ss s
  | .get ss => Sys2Proof.Machine.execGet ss s

end Sys2Proof.Machine
end

