-- ==== Sys2Proof/Machine/Step.lean ====
section
/-!
DEFINITION. One step (spec 00_scope.md R12): the execution of one accepted command, or a move of the host by which no
command is accepted.
-/

namespace Sys2Proof.Machine

/-- The execution of one accepted command, legal or not: R12's total function of configuration, state and command.
Decoding comes before any effect (60_exceptions.md R165). -/
def runCommand (c : Command) (s : State) : Host.Outcome State Fault Refusal :=
  match decodeCommand c with
  | .ok i => exec i s
  | .error _ => raiseIllegalCommand s

/-- One step of the machine. -/
def step (s : State) : Host.Outcome State Fault Refusal :=
  match nextMove s with
  | .wait => .next s
  | .host t => .next t
  | .accept c t => runCommand c t

/-- The state with the instruction of these bits presented by the host as its next command, the core ready to accept
it (log 10). -/
def State.withFetchWord (s : State) (nbits w : Nat) : State := presentCommand (commandOfTableWord nbits w) s

end Sys2Proof.Machine
end

