-- ==== Sys2Proof/Safety.lean ====
section
/-!
DEFINITION. The terms claims are made in: frames, the invariant of the machine, and the command function of
00_scope.md R12 written a second time, in plain arithmetic on the fields of the command word, as a reference the
machine is to be compared with.
-/

namespace Sys2Proof.Machine

/-! ## Frames -/

/-- Everything a command has no business with: the parameters (R7), the input `rst`, and the host's side. -/
structure Untouched (s t : State) : Prop where
  cfg : t.cfg = s.cfg
  rst : t.rst = s.rst
  script : t.script = s.script
  received : t.received = s.received

/-- No state register but `sd` changes. -/
def OthersKept (sd : SReg) (s t : State) : Prop := ∀ r, r ≠ sd → t.reg r = s.reg r

/-- No state register changes. -/
def RegsKept (s t : State) : Prop := ∀ r, t.reg r = s.reg r

/-! ## Which command reads and writes what (10_state.md R21) -/

/-- The register a command writes. -/
def written : Instr → Option SReg
  | .seed sd _ => some sd
  | .adv sd _ => some sd
  | .mix _ => none
  | .jump sd _ _ => some sd
  | .par sd _ => some sd
  | .get _ => none

/-- The register a command reads. -/
def readBy : Instr → Option SReg
  | .seed _ _ => none
  | .adv _ ss => some ss
  | .mix ss => some ss
  | .jump _ ss _ => some ss
  | .par _ ss => some ss
  | .get ss => some ss

/-! ## The invariant -/

/-- The responses a core can give (30_encoding.md R70): with `ERR = 1` both data fields are zero. -/
def Response.wellFormed (r : Response) : Bool := !r.err || (r.d0 == 0 && r.d1 == 0)

/-- What holds of a core with a legal configuration, at reset and ever after. -/
structure State.Inv (s : State) : Prop where
  /-- the configuration meets 00_scope.md R6 -/
  legal : s.cfg.legal = true
  /-- the response presented is one of R70 -/
  presented : ∀ r, s.rsp = some r → r.wellFormed = true
  /-- every response the host has taken is one of R70 -/
  taken : ∀ r, r ∈ s.received → r.wellFormed = true
  /-- while `rst` is high the registers are zero and no response is presented (70_reset_and_hazards.md R180, R181) -/
  inReset : s.rst = true → (∀ i, s.reg i = 0) ∧ s.rsp = none

/-! ## The command word in numbers (30_encoding.md R62) -/

/-- `CW[7:5]` as a number. -/
def opOf (cw : Byte) : Nat := cw.toNat / 32

/-- `CW[4]` as a number. -/
def zOf (cw : Byte) : Nat := cw.toNat / 16 % 2

/-- `CW[3:2]` as a number. -/
def sdOf (cw : Byte) : Nat := cw.toNat / 4 % 4

/-- `CW[1:0]` as a number. -/
def ssOf (cw : Byte) : Nat := cw.toNat % 4

/-- The number of a register. -/
def numberOf : SReg → Nat
  | .s0 => 0
  | .s1 => 1
  | .s2 => 2
  | .s3 => 3

/-- The register of a number below 4. -/
def regOf : Nat → SReg
  | 0 => .s0
  | 1 => .s1
  | 2 => .s2
  | _ => .s3

/-- The command word `op * 32 + sd * 4 + ss`. -/
def wordOf (op : Nat) (sd ss : Nat) : Byte := BitVec.ofNat 8 (op * 32 + sd * 4 + ss)

/-- The illegal words: the list of conditions of R69. -/
abbrev IllegalWord (cw : Byte) : Prop :=
  opOf cw = 0 ∨ opOf cw = 7 ∨ zOf cw = 1 ∨ (opOf cw = 1 ∧ ssOf cw ≠ 0) ∨ (opOf cw = 3 ∧ sdOf cw ≠ 0) ∨
    (opOf cw = 6 ∧ sdOf cw ≠ 0)

/-! ## The command function of 00_scope.md R12 -/

/-- The contents of the four registers: "the state of one core ... and nothing else" (R12). -/
abbrev Regs := SReg → Block

/-- The register file with one register written. -/
def Regs.write (S : Regs) (i : SReg) (v : Block) : Regs := fun r => if r = i then v else S r

/-- The value of two lanes given as numbers, each reduced modulo `2^64` (R8, R10). -/
def ofLaneNumbers (l h : Nat) : Block := BitVec.ofNat 128 (h % 2 ^ 64 * 2 ^ 64 + l % 2 ^ 64)

/-- The low lane as a number. -/
def loNumber (v : Block) : Nat := v.toNat % 2 ^ 64

/-- The high lane as a number. -/
def hiNumber (v : Block) : Nat := v.toNat / 2 ^ 64

/-- `Config × State × Command → State × Response` (R12), from the pseudocode of R90, R92, R101, R133, R141, R147 and
R160 on numbers; `mix` through the names of the two round primitives (R130). -/
def coreFunction (cfg : Config) (S : Regs) (c : Command) : Regs × Response :=
  let sd := regOf (sdOf c.cw)
  let src := S (regOf (ssOf c.cw))
  let ok : Response := { err := false, d0 := 0, d1 := 0 }
  if IllegalWord c.cw then (S, { err := true, d0 := 0, d1 := 0 })
  else match opOf c.cw with
    | 1 => (S.write sd c.data, ok)
    | 2 => (S.write sd (BitVec.ofNat 128 (src.toNat + cfg.inc.toNat)), ok)
    | 3 =>
      let p := encRound src cfg.key
      (S, { err := false, d0 := encRound p cfg.key, d1 := decRound p cfg.key })
    | 4 =>
      let n := c.data.toNat % 2 ^ 64
      (S.write sd (ofLaneNumbers (loNumber src + loNumber cfg.inc * n) (hiNumber src + hiNumber cfg.inc * n)), ok)
    | 5 =>
      (S.write sd (ofLaneNumbers (loNumber src)
        (6364136223846793005 * hiNumber src + 1442695040888963407)), ok)
    | _ => (S, { err := false, d0 := src, d1 := 0 })

/-- The values the MIX commands of a list mix, in order, each the content of its source register when its turn comes
(43_mix.md R133; 20_memory.md R48). -/
def mixedValues (cfg : Config) (S : Regs) : List Command → List Block
  | [] => []
  | c :: cs =>
    (if opOf c.cw = 3 ∧ ¬ IllegalWord c.cw then [S (regOf (ssOf c.cw))] else []) ++
      mixedValues cfg (coreFunction cfg S c).1 cs

/-- The responses of a list of commands and the registers after them, each command seeing the registers left by those
before it (20_memory.md R48). -/
def coreRun (cfg : Config) (S : Regs) : List Command → Regs × List Response
  | [] => (S, [])
  | c :: cs =>
    let one := coreFunction cfg S c
    let more := coreRun cfg one.1 cs
    (more.1, one.2 :: more.2)

end Sys2Proof.Machine
end

