-- ==== Sys2Proof/Certificates/Slice0/Obligations.lean ====
section
/-!
DEFINITION. The statements for the provers. "log n" is notes/assumptions/n.md. Where a statement speaks of `script`,
`received` or `step`, it is about the model's own rendering of the ports (log 4, log 5); statements about `exec` and
`runCommand` are about the core alone.
-/

open Sys2Proof
open Sys2Proof.Machine

/-! ## Encoding -/

/-- Words written out bit by bit from the opcode map (30_encoding.md section 3; 95_test_vectors.md section 2.7), one or
more of each command and one of each kind of illegal word. -/
def Obligations.FamilyWordsDecode : Prop :=
  ∀ data : Block,
    decode 0b00101100#8 data = .ok (.seed .s3 data) ∧
    decode 0b01001011#8 data = .ok (.adv .s2 .s3) ∧
    decode 0b01100011#8 data = .ok (.mix .s3) ∧
    decode 0b10000100#8 data = .ok (.jump .s1 .s0 (lo data)) ∧
    decode 0b10101110#8 data = .ok (.par .s3 .s2) ∧
    decode 0b11000010#8 data = .ok (.get .s2) ∧
    decode 0b00000000#8 data = .error .opcodeZero ∧
    decode 0b11101111#8 data = .error .opcodeSeven ∧
    decode 0b10011010#8 data = .error .reservedBit ∧
    decode 0b00101111#8 data = .error .seedSource ∧
    decode 0b01100100#8 data = .error .mixDestination ∧
    decode 0b11001000#8 data = .error .getDestination

/-- For every command and every value of its operands: decoding its encoding gives it back, as a command word with its
operand and as a 17-byte record followed by any bytes (30_encoding.md sections 2 and 3). -/
def Obligations.DecodeEncodeRoundTrip : Prop :=
  ∀ (i : Instr) (rest : List Byte),
    decodeCommand (encode i) = .ok i ∧ (encodeBytes i).length = 17 ∧
      decodeBytes (encodeBytes i ++ rest) = .ok (i, rest)

/-- "Decoding then encoding gives back the same `CW` for every legal word, and two different legal words never decode to
the same command": the spec marks the sentence as derived (30_encoding.md section 3, under R66). -/
def Obligations.EncodeDecodeGivesBackWord : Prop :=
  (∀ (cw : Byte) (data : Block) (i : Instr), decode cw data = .ok i → (encode i).cw = cw) ∧
  (∀ (cw cw' : Byte) (data data' : Block) (i : Instr),
    decode cw data = .ok i → decode cw' data' = .ok i → cw = cw')

/-- R69 with R160: a word is illegal exactly under the listed conditions, whatever `DATA` is; an illegal command is
accepted, changes no state, is answered `(1, 0, 0)`, and the core goes on. -/
def Obligations.IllegalCommandChangesNothing : Prop :=
  ∀ (cw : Byte) (data : Block),
    (IllegalWord cw ↔ ∃ why, decode cw data = .error why) ∧
    (IllegalWord cw → ∀ s : State, ∃ t, runCommand ⟨cw, data⟩ s = .next t ∧ RegsKept s t ∧
      t.rsp = some ⟨true, 0, 0⟩ ∧ Untouched s t)

/-- R65: a word selects a row exactly when `(cw AND mask) = match`, its bits 3:2 are `sd` and its bits 1:0 `ss`; the rows
together select 60 of the 256 words, and the other 196 are illegal. Disjointness is that `decode` is a function. -/
def Obligations.OpcodeMapSelectsCommands : Prop :=
  (∀ (cw : Byte) (data : Block),
    (cw &&& 0xF3 = 0x20 ↔ ∃ sd imm, decode cw data = .ok (.seed sd imm)) ∧
    (cw &&& 0xF0 = 0x40 ↔ ∃ sd ss, decode cw data = .ok (.adv sd ss)) ∧
    (cw &&& 0xFC = 0x60 ↔ ∃ ss, decode cw data = .ok (.mix ss)) ∧
    (cw &&& 0xF0 = 0x80 ↔ ∃ sd ss n, decode cw data = .ok (.jump sd ss n)) ∧
    (cw &&& 0xF0 = 0xA0 ↔ ∃ sd ss, decode cw data = .ok (.par sd ss)) ∧
    (cw &&& 0xFC = 0xC0 ↔ ∃ ss, decode cw data = .ok (.get ss))) ∧
  (∀ (cw : Byte) (data : Block) (i : Instr), decode cw data = .ok i →
    (∀ r, written i = some r → numberOf r = sdOf cw) ∧ (∀ r, readBy i = some r → numberOf r = ssOf cw)) ∧
  ((List.range 256).filter fun n => (decode (BitVec.ofNat 8 n) 0).toOption.isSome).length = 60 ∧
  ((List.range 256).filter fun n => decide (IllegalWord (BitVec.ofNat 8 n))).length = 196

/-- R63: `imm128 = DATA[127:0]`; `n = DATA[63:0]` and `DATA[127:64]` is ignored by `JUMP`; all of `DATA` is ignored by
`ADV`, `PAR`, `MIX` and `GET` (and by illegal words): any value gives the same next state and the same response; the
register operands are those selected by the two index fields. -/
def Obligations.OperandsAssembledFromData : Prop :=
  (∀ (cw : Byte) (data : Block) (sd : SReg) (imm : Block), decode cw data = .ok (.seed sd imm) → imm = data) ∧
  (∀ (cw : Byte) (data : Block) (sd ss : SReg) (n : Lane),
    decode cw data = .ok (.jump sd ss n) → n.toNat = data.toNat % 2 ^ 64) ∧
  (∀ (cw : Byte) (d e : Block) (s : State), opOf cw = 4 → d.toNat % 2 ^ 64 = e.toNat % 2 ^ 64 →
    runCommand ⟨cw, d⟩ s = runCommand ⟨cw, e⟩ s) ∧
  (∀ (cw : Byte) (d e : Block) (s : State), opOf cw ≠ 1 → opOf cw ≠ 4 →
    runCommand ⟨cw, d⟩ s = runCommand ⟨cw, e⟩ s) ∧
  (∀ (cw : Byte) (data : Block) (i : Instr), decode cw data = .ok i →
    (∀ r, written i = some r → r = regOf (sdOf cw)) ∧ (∀ r, readBy i = some r → r = regOf (ssOf cw)))

/-! ## The six commands: word, result, response, frame -/

/-- R90 `SEED sd, imm128`: the register holds exactly the bits presented; with `ss ≠ 0` the word is illegal. -/
def Obligations.SeedLoadsRegister : Prop :=
  ∀ (sd : SReg) (imm : Block) (s : State),
    (∃ t, exec (.seed sd imm) s = .next t ∧ runCommand ⟨wordOf 1 (numberOf sd) 0, imm⟩ s = .next t ∧
      t.reg sd = imm ∧ OthersKept sd s t ∧ t.rsp = some ⟨false, 0, 0⟩ ∧ Untouched s t) ∧
    (∀ ss, ss ≠ .s0 → ∃ u, runCommand ⟨wordOf 1 (numberOf sd) (numberOf ss), imm⟩ s = .next u ∧
      RegsKept s u ∧ u.rsp = some ⟨true, 0, 0⟩ ∧ Untouched s u)

/-- R92 `GET ss`: the value is returned bit for bit, `GET` writes nothing, `DATA` is ignored; with `sd ≠ 0` the word is
illegal. -/
def Obligations.GetReturnsRegister : Prop :=
  ∀ (ss : SReg) (data : Block) (s : State),
    (∃ t, exec (.get ss) s = .next t ∧ runCommand ⟨wordOf 6 0 (numberOf ss), data⟩ s = .next t ∧
      RegsKept s t ∧ t.rsp = some ⟨false, s.reg ss, 0⟩ ∧ Untouched s t) ∧
    (∀ sd, sd ≠ .s0 → ∃ u, runCommand ⟨wordOf 6 (numberOf sd) (numberOf ss), data⟩ s = .next u ∧
      RegsKept s u ∧ u.rsp = some ⟨true, 0, 0⟩ ∧ Untouched s u)

/-- R101 `ADV sd, ss` with R100: `S[sd]` becomes `(S[ss] + INC) mod 2^128`; with `sd = ss` the read comes before the
write, with `sd ≠ ss` the source is among the registers kept. -/
def Obligations.AdvAddsIncrement : Prop :=
  ∀ (sd ss : SReg) (data : Block) (s : State), ∃ t,
    exec (.adv sd ss) s = .next t ∧ runCommand ⟨wordOf 2 (numberOf sd) (numberOf ss), data⟩ s = .next t ∧
    (t.reg sd).toNat = ((s.reg ss).toNat + s.cfg.inc.toNat) % 2 ^ 128 ∧ OthersKept sd s t ∧
    t.rsp = some ⟨false, 0, 0⟩ ∧ Untouched s t

/-- R133 `MIX ss` with R130: one encrypt round, then from its result an encrypt round for `D0` and a decrypt round for
`D1`, all with `KEY`; no register is written; with `sd ≠ 0` the word is illegal. -/
def Obligations.MixReturnsBothBlocks : Prop :=
  ∀ (ss : SReg) (data : Block) (s : State),
    (∃ t, exec (.mix ss) s = .next t ∧ runCommand ⟨wordOf 3 0 (numberOf ss), data⟩ s = .next t ∧
      RegsKept s t ∧
      t.rsp = some ⟨false, encRound (encRound (s.reg ss) s.cfg.key) s.cfg.key,
        decRound (encRound (s.reg ss) s.cfg.key) s.cfg.key⟩ ∧ Untouched s t) ∧
    (∀ sd, sd ≠ .s0 → ∃ u, runCommand ⟨wordOf 3 (numberOf sd) (numberOf ss), data⟩ s = .next u ∧
      RegsKept s u ∧ u.rsp = some ⟨true, 0, 0⟩ ∧ Untouched s u)

/-- R141 `JUMP sd, ss, n` with R140: each lane plus its lane of `INC` times `n`, modulo `2^64`, with no carry between
the lanes, for every `n` and every value of `DATA[127:64]`. -/
def Obligations.JumpAddsLanewise : Prop :=
  ∀ (sd ss : SReg) (n upper : Lane) (s : State), ∃ t,
    exec (.jump sd ss n) s = .next t ∧
    runCommand ⟨wordOf 4 (numberOf sd) (numberOf ss), mk n upper⟩ s = .next t ∧
    (lo (t.reg sd)).toNat = ((lo (s.reg ss)).toNat + (lo s.cfg.inc).toNat * n.toNat) % 2 ^ 64 ∧
    (hi (t.reg sd)).toNat = ((hi (s.reg ss)).toNat + (hi s.cfg.inc).toNat * n.toNat) % 2 ^ 64 ∧
    OthersKept sd s t ∧ t.rsp = some ⟨false, 0, 0⟩ ∧ Untouched s t

/-- R147 `PAR sd, ss` with R146: the high lane through the linear-congruential step with the two literals as printed,
the low lane copied. -/
def Obligations.ParStepsHighLane : Prop :=
  ∀ (sd ss : SReg) (data : Block) (s : State), ∃ t,
    exec (.par sd ss) s = .next t ∧ runCommand ⟨wordOf 5 (numberOf sd) (numberOf ss), data⟩ s = .next t ∧
    (hi (t.reg sd)).toNat =
      (6364136223846793005 * (hi (s.reg ss)).toNat + 1442695040888963407) % 2 ^ 64 ∧
    lo (t.reg sd) = lo (s.reg ss) ∧ OthersKept sd s t ∧ t.rsp = some ⟨false, 0, 0⟩ ∧ Untouched s t

/-! ## The increment engine -/

/-- The 128-bit sum is the sum in lanes with the carry of the low lane going into the high lane and that of the high lane
discarded: the spec marks this equality as derived (41_increment.md section 1, under R100). `advance` is a bijection
whose inverse subtracts `INC`. -/
def Obligations.AdvanceIsLaneAddWithCarry : Prop :=
  ∀ (cfg : Config) (s : Block),
    (advance cfg s).toNat = (s.toNat + cfg.inc.toNat) % 2 ^ 128 ∧
    advance cfg s = advanceLanes cfg s ∧
    (let sumLo := (lo s).toNat + (lo cfg.inc).toNat
     (lo (advance cfg s)).toNat = sumLo % 2 ^ 64 ∧
     (hi (advance cfg s)).toNat =
       ((hi s).toNat + (hi cfg.inc).toNat + (if 2 ^ 64 ≤ sumLo then 1 else 0)) % 2 ^ 64) ∧
    advance cfg (s - cfg.inc) = s ∧ advance cfg s - cfg.inc = s

/-- R103, the full-period property, for every configuration with an odd `INC.lo` (R6 (a)) and every start. -/
def Obligations.LowLaneFullPeriod : Prop :=
  ∀ cfg : Config, cfg.incOdd = true → ∀ s : Block,
    (∀ k : Nat, (lo ((advance cfg)^[k] s)).toNat = ((lo s).toNat + k * (lo cfg.inc).toNat) % 2 ^ 64) ∧
    lo ((advance cfg)^[2 ^ 64] s) = lo s ∧
    (∀ k : Nat, 0 < k → k < 2 ^ 64 → lo ((advance cfg)^[k] s) ≠ lo s) ∧
    (∀ l : Lane, ∃ k : Nat, k < 2 ^ 64 ∧ lo ((advance cfg)^[k] s) = l ∧
      ∀ j : Nat, j < 2 ^ 64 → lo ((advance cfg)^[j] s) = l → j = k)

/-- The whole state returns after exactly `2^128` steps and takes every value once: the spec marks this as derived
(41_increment.md section 3, under R104). -/
def Obligations.WholeStateFullPeriod : Prop :=
  ∀ cfg : Config, cfg.incOdd = true → ∀ s : Block,
    (∀ k : Nat, ((advance cfg)^[k] s).toNat = (s.toNat + k * cfg.inc.toNat) % 2 ^ 128) ∧
    (advance cfg)^[2 ^ 128] s = s ∧
    (∀ k : Nat, 0 < k → k < 2 ^ 128 → (advance cfg)^[k] s ≠ s) ∧
    (∀ v : Block, ∃ k : Nat, k < 2 ^ 128 ∧ (advance cfg)^[k] s = v)

/-- The high lane over `k` steps, and over one full low-lane cycle, which changes it by `INC.lo`: the spec marks this as
derived (41_increment.md section 3, under R105). -/
def Obligations.HighLaneEvolution : Prop :=
  ∀ (cfg : Config) (s : Block),
    (∀ k : Nat, (hi ((advance cfg)^[k] s)).toNat =
      ((hi s).toNat + k * (hi cfg.inc).toNat + ((lo s).toNat + k * (lo cfg.inc).toNat) / 2 ^ 64) % 2 ^ 64) ∧
    hi ((advance cfg)^[2 ^ 64] s) = hi s + lo cfg.inc

/-! ## Stream derivation -/

/-- R143: `jump(s, 0) = s` for every `s`, so `JUMP sd, ss, 0` copies and `JUMP sd, sd, 0` leaves every register. -/
def Obligations.JumpByZeroCopies : Prop :=
  (∀ (cfg : Config) (v : Block), jump cfg v 0 = v) ∧
  (∀ (sd ss : SReg) (s : State), ∃ t, exec (.jump sd ss 0) s = .next t ∧ t.reg sd = s.reg ss ∧ OthersKept sd s t) ∧
  (∀ (sd : SReg) (s : State), ∃ t, exec (.jump sd sd 0) s = .next t ∧ RegsKept s t)

/-- Two jumps are one jump by the sum of the distances, and a jump by the two's complement undoes a jump: the spec marks
this as derived (44_stream_derivation.md section 2, under R144). -/
def Obligations.JumpsComposeAndInvert : Prop :=
  (∀ (sd mid ss : SReg) (a b : Lane) (s : State), ∃ t u v,
    exec (.jump mid ss a) s = .next t ∧ exec (.jump sd mid b) t = .next u ∧ exec (.jump sd ss (a + b)) s = .next v ∧
    u.reg sd = v.reg sd) ∧
  (∀ (sd ss : SReg) (n : Lane) (s : State), ∃ t u,
    exec (.jump sd ss n) s = .next t ∧
    exec (.jump sd sd (BitVec.ofNat 64 ((2 ^ 64 - n.toNat) % 2 ^ 64))) t = .next u ∧ u.reg sd = s.reg ss) ∧
  (∀ (cfg : Config) (n : Lane), Function.Bijective fun v => jump cfg v n)

/-- `jump` against `n` applications of `advance`: low lanes equal, high lanes apart by the number of low-lane wraps,
fully equal exactly when the low lane did not wrap. The spec marks this as derived (44_stream_derivation.md section 2,
under R145; 90_conflicts.md C1). -/
def Obligations.JumpAgainstRepeatedAdvance : Prop :=
  ∀ (cfg : Config) (s : Block) (n : Nat), n < 2 ^ 64 →
    carries cfg (lo s) n = ((lo s).toNat + n * (lo cfg.inc).toNat) / 2 ^ 64 ∧
    lo ((advance cfg)^[n] s) = lo (jump cfg s (BitVec.ofNat 64 n)) ∧
    (hi ((advance cfg)^[n] s)).toNat =
      ((hi (jump cfg s (BitVec.ofNat 64 n))).toNat + carries cfg (lo s) n) % 2 ^ 64 ∧
    (jump cfg s (BitVec.ofNat 64 n) = (advance cfg)^[n] s ↔
      (lo s).toNat + n * (lo cfg.inc).toNat < 2 ^ 64)

/-- For any natural distance, its low 64 bits give the lanes the whole number would: the spec marks this as derived
(44_stream_derivation.md section 2, under R142). -/
def Obligations.JumpDistanceModulo : Prop :=
  ∀ (cfg : Config) (s : Block) (n : Nat),
    (lo (jump cfg s (BitVec.ofNat 64 n))).toNat = ((lo s).toNat + (lo cfg.inc).toNat * n) % 2 ^ 64 ∧
    (hi (jump cfg s (BitVec.ofNat 64 n))).toNat = ((hi s).toNat + (hi cfg.inc).toNat * n) % 2 ^ 64

/-- `PAR` never returns its input: the two high lanes always differ; and `parallel` is a bijection. The spec marks this
as derived (44_stream_derivation.md section 4, under R148). -/
def Obligations.ParChangesHighLane : Prop :=
  (∀ (sd ss : SReg) (s : State), ∃ t, exec (.par sd ss) s = .next t ∧ hi (t.reg sd) ≠ hi (s.reg ss)) ∧
  Function.Bijective parallel

/-- Repeated `PAR sd, sd` visits `2^64` different high lanes before it repeats. The spec marks this as derived
(44_stream_derivation.md section 4, under R148). -/
def Obligations.RepeatedParCyclesHighLane : Prop :=
  ∀ s : Block,
    parallel^[2 ^ 64] s = s ∧
    (∀ k : Nat, 0 < k → k < 2 ^ 64 → hi (parallel^[k] s) ≠ hi s) ∧
    (∀ h : Lane, ∃ k : Nat, k < 2 ^ 64 ∧ hi (parallel^[k] s) = h)

/-- How far a derived stream is from its parent on the one cycle of `advance`, and that the first `2^64` states of the
two have none in common. The spec marks this as derived (44_stream_derivation.md section 4, under R149; 90_conflicts.md
C4). -/
def Obligations.ParallelStreamDistance : Prop :=
  ∀ cfg : Config, cfg.incOdd = true → ∀ s : Block,
    (∃ m : Nat, 0 < m ∧ m < 2 ^ 64 ∧
      (m * (lo cfg.inc).toNat) % 2 ^ 64 = ((hi (parallel s)).toNat + 2 ^ 64 - (hi s).toNat) % 2 ^ 64 ∧
      parallel s = (advance cfg)^[2 ^ 64 * m] s) ∧
    (∀ j k : Nat, j < 2 ^ 64 → k < 2 ^ 64 → (advance cfg)^[j] s ≠ (advance cfg)^[k] (parallel s))

/-- Within those `2^64` steps no `blockA` of the one stream equals a `blockA` of the other, and the same for `blockB`.
The spec marks this as derived (44_stream_derivation.md section 4, under R149). -/
def Obligations.ParallelStreamBlocksDiffer : Prop :=
  ∀ cfg : Config, cfg.incOdd = true → ∀ (s : Block) (j k : Nat), j < 2 ^ 64 → k < 2 ^ 64 →
    (mix cfg ((advance cfg)^[j] s)).1 ≠ (mix cfg ((advance cfg)^[k] (parallel s))).1 ∧
    (mix cfg ((advance cfg)^[j] s)).2 ≠ (mix cfg ((advance cfg)^[k] (parallel s))).2

/-! ## The AES rounds and the mixing function -/

/-- R118: the four bytes of each column of `ENC_ROUND(v, k)` from the bytes of `v`: rows shifted, bytes substituted,
the column mixed, the key last (R111, R115, R116, R117); a bijection for fixed `k`; the key enters only through the
final exclusive or. -/
def Obligations.EncRoundBytes : Prop :=
  (∀ (v k : Block) (c : Nat), c < 4 →
    let x : Nat → Byte := fun r => sbox (byte v (4 * ((c + r) % 4) + r))
    byte (encRound v k) (4 * c) = mul2 (x 0) ^^^ mul3 (x 1) ^^^ x 2 ^^^ x 3 ^^^ byte k (4 * c) ∧
    byte (encRound v k) (4 * c + 1) = x 0 ^^^ mul2 (x 1) ^^^ mul3 (x 2) ^^^ x 3 ^^^ byte k (4 * c + 1) ∧
    byte (encRound v k) (4 * c + 2) = x 0 ^^^ x 1 ^^^ mul2 (x 2) ^^^ mul3 (x 3) ^^^ byte k (4 * c + 2) ∧
    byte (encRound v k) (4 * c + 3) = mul3 (x 0) ^^^ x 1 ^^^ x 2 ^^^ mul2 (x 3) ^^^ byte k (4 * c + 3)) ∧
  (∀ k : Block, Function.Bijective fun v => encRound v k) ∧
  (∀ v k : Block, encRound v k = encRound v 0 ^^^ k)

/-- R119: the same of `DEC_ROUND(v, k)`, with the inverse steps; it is not the inverse of `ENC_ROUND`, whose inverse takes
the key off first and has the steps in the other order. -/
def Obligations.DecRoundBytes : Prop :=
  (∀ (v k : Block) (c : Nat), c < 4 →
    let x : Nat → Byte := fun r => invSbox (byte v (4 * ((c + 4 - r) % 4) + r))
    byte (decRound v k) (4 * c) =
      mul14 (x 0) ^^^ mul11 (x 1) ^^^ mul13 (x 2) ^^^ mul9 (x 3) ^^^ byte k (4 * c) ∧
    byte (decRound v k) (4 * c + 1) =
      mul9 (x 0) ^^^ mul14 (x 1) ^^^ mul11 (x 2) ^^^ mul13 (x 3) ^^^ byte k (4 * c + 1) ∧
    byte (decRound v k) (4 * c + 2) =
      mul13 (x 0) ^^^ mul9 (x 1) ^^^ mul14 (x 2) ^^^ mul11 (x 3) ^^^ byte k (4 * c + 2) ∧
    byte (decRound v k) (4 * c + 3) =
      mul11 (x 0) ^^^ mul13 (x 1) ^^^ mul9 (x 2) ^^^ mul14 (x 3) ^^^ byte k (4 * c + 3)) ∧
  (∀ k : Block, Function.Bijective fun v => decRound v k) ∧
  (∀ v k : Block, decRound v k = decRound v 0 ^^^ k) ∧
  (∃ v k : Block, decRound (encRound v k) k ≠ v) ∧
  (∀ v k : Block, aesBlock (invShiftRows (invSubBytes (invMixColumns (aesState (encRound v k ^^^ k))))) = v)

/-- R117: the two column maps, each the other's inverse, both linear over exclusive or, with the spec's checks. -/
def Obligations.MixColumnsLinearAndInvertible : Prop :=
  (∀ a0 a1 a2 a3 : Byte,
    mixColumn ⟨a0, a1, a2, a3⟩ =
      ⟨mul2 a0 ^^^ mul3 a1 ^^^ a2 ^^^ a3, a0 ^^^ mul2 a1 ^^^ mul3 a2 ^^^ a3,
       a0 ^^^ a1 ^^^ mul2 a2 ^^^ mul3 a3, mul3 a0 ^^^ a1 ^^^ a2 ^^^ mul2 a3⟩ ∧
    invMixColumn ⟨a0, a1, a2, a3⟩ =
      ⟨mul14 a0 ^^^ mul11 a1 ^^^ mul13 a2 ^^^ mul9 a3, mul9 a0 ^^^ mul14 a1 ^^^ mul11 a2 ^^^ mul13 a3,
       mul13 a0 ^^^ mul9 a1 ^^^ mul14 a2 ^^^ mul11 a3, mul11 a0 ^^^ mul13 a1 ^^^ mul9 a2 ^^^ mul14 a3⟩) ∧
  (∀ x : AesState, invMixColumns (mixColumns x) = x ∧ mixColumns (invMixColumns x) = x) ∧
  (∀ u v : Block,
    aesBlock (mixColumns (aesState (u ^^^ v))) = aesBlock (mixColumns (aesState u)) ^^^ aesBlock (mixColumns (aesState v)) ∧
    aesBlock (invMixColumns (aesState (u ^^^ v))) =
      aesBlock (invMixColumns (aesState u)) ^^^ aesBlock (invMixColumns (aesState v))) ∧
  mixColumn ⟨0xDB, 0x13, 0x53, 0x45⟩ = ⟨0x8E, 0x4D, 0xA1, 0xBC⟩ ∧
  mixColumn ⟨0xF2, 0x0A, 0x22, 0x5C⟩ = ⟨0x9F, 0xDC, 0x58, 0x9D⟩ ∧
  mixColumn ⟨0x01, 0x01, 0x01, 0x01⟩ = ⟨0x01, 0x01, 0x01, 0x01⟩ ∧
  mixColumn ⟨0xC6, 0xC6, 0xC6, 0xC6⟩ = ⟨0xC6, 0xC6, 0xC6, 0xC6⟩

/-- R113, R114: `SBOX[a] = aff(inv(a))` with `inv` the inverse in the field of R112 and `inv(0) = 0`; `SBOX` is a
permutation with no fixed point; `INV_SBOX` is the inverse permutation. -/
def Obligations.SubstitutionTablesAlgebraic : Prop :=
  (∃ inv : Byte → Byte, inv 0 = 0 ∧ (∀ a, a ≠ 0 → fieldMul a (inv a) = 1) ∧ ∀ a, sbox a = affine (inv a)) ∧
  Function.Bijective sbox ∧ (∀ a, sbox a ≠ a) ∧ (∀ a, invSbox (sbox a) = a)

/-- R116: the row shifts as the two index lists, and that row shifts and byte substitutions commute. -/
def Obligations.ShiftRowsIndexLists : Prop :=
  (∀ (v : Block) (i : Nat), i < 16 →
    byte (aesBlock (shiftRows (aesState v))) i =
      byte v ([0, 5, 10, 15, 4, 9, 14, 3, 8, 13, 2, 7, 12, 1, 6, 11].getD i 0) ∧
    byte (aesBlock (invShiftRows (aesState v))) i =
      byte v ([0, 13, 10, 7, 4, 1, 14, 11, 8, 5, 2, 15, 12, 9, 6, 3].getD i 0)) ∧
  (∀ x : AesState, shiftRows (subBytes x) = subBytes (shiftRows x) ∧
    invShiftRows (invSubBytes x) = invSubBytes (invShiftRows x))

/-- The reach of one round: changing byte 0 of the input changes only bytes 0 to 3 of the output of `ENC_ROUND`. The
spec marks this as derived (42_aes_round.md section 5, under R120). -/
def Obligations.OneByteReachesOneColumn : Prop :=
  ∀ u v k : Block, (∀ i, 0 < i → i < 16 → byte u i = byte v i) →
    ∀ i, 4 ≤ i → i < 16 → byte (encRound u k) i = byte (encRound v k) i

/-- The worked examples the spec's tables were checked against: FIPS 197 Appendix B round 1, Intel's white paper, and the
step-by-step example (42_aes_round.md section 5). -/
def Obligations.PublishedRoundExamples : Prop :=
  encRound 0x0848F8E92A8DC69A2BE2F4A0BEE33D19 0x05766C2A3939A323B12C548817FEFAA0 =
    0x49506A0243EA5B6B2B359F68F27F9CA4 ∧
  encRound 0x7B5B54657374566563746F725D53475D 0x48692853686179295B477565726F6E5D =
    0xA8311C2F9FDBA3C58B104B58DED7E595 ∧
  decRound 0x7B5B54657374566563746F725D53475D 0x48692853686179295B477565726F6E5D =
    0x138AC342FAEA2787B58EB95EB730392A ∧
  encRound 0x0F0E0D0C0B0A09080706050403020100 0 = 0x5C219C27615DD9B051336D2C455C6A6A ∧
  decRound 0x0F0E0D0C0B0A09080706050403020100 0 = 0x519BBDC6B2F24F176E29192E1C96A313

/-- Under one key two different states never give the same `blockA`, never the same `blockB`; both maps are bijections;
and `blockA XOR blockB` depends on `penultimate` only. The spec marks this as derived (43_mix.md section 3, under
R134). -/
def Obligations.MixBlocksAreInjective : Prop :=
  (∀ (a b : SReg) (s t : State), s.cfg.key = t.cfg.key → ∃ s' t' r q,
    exec (.mix a) s = .next s' ∧ s'.rsp = some r ∧ exec (.mix b) t = .next t' ∧ t'.rsp = some q ∧
    (r.d0 = q.d0 → s.reg a = t.reg b) ∧ (r.d1 = q.d1 → s.reg a = t.reg b)) ∧
  (∀ cfg : Config, Function.Bijective (fun v => (mix cfg v).1) ∧ Function.Bijective (fun v => (mix cfg v).2)) ∧
  (∀ (cfg : Config) (v : Block),
    (mix cfg v).1 ^^^ (mix cfg v).2 = encRound (encRound v cfg.key) 0 ^^^ decRound (encRound v cfg.key) 0)

/-- R187: a host that issues `MIX ss` repeatedly without `ADV ss` in between gets the same 32 bytes every time. -/
def Obligations.MixRepeatsWithoutAdvance : Prop :=
  ∀ (ss : SReg) (s : State), ∃ t u r,
    exec (.mix ss) s = .next t ∧ exec (.mix ss) t = .next u ∧ RegsKept s u ∧
    t.rsp = some r ∧ u.rsp = some r ∧ outputBytes r = ser (mix s.cfg (s.reg ss)).1 ++ ser (mix s.cfg (s.reg ss)).2

/-- An `ADV ss` between two `MIX ss` gives a fresh pair: both blocks differ from the first pair's (43_mix.md section 2,
"a host that wants a fresh pair issues `ADV ss` between them"). -/
def Obligations.AdvanceFreshensBothBlocks : Prop :=
  ∀ (ss : SReg) (s : State), s.cfg.incOdd = true → ∃ t u v r q,
    exec (.mix ss) s = .next t ∧ exec (.adv ss ss) t = .next u ∧ exec (.mix ss) u = .next v ∧
    t.rsp = some r ∧ v.rsp = some q ∧ r.d0 ≠ q.d0 ∧ r.d1 ≠ q.d1

/-- R132: `mix(s)` depends on `s` and `KEY` and on nothing else, in particular not on the other registers, nor on which
register held `s`. -/
def Obligations.MixDependsOnStateAndKey : Prop :=
  ∀ (a b : SReg) (s t : State), s.reg a = t.reg b → s.cfg.key = t.cfg.key → ∃ s' t',
    exec (.mix a) s = .next s' ∧ exec (.mix b) t = .next t' ∧ s'.rsp = t'.rsp

/-! ## Completion and the one exception -/

/-- R162: for every legal command, every content of the four registers and every value of `DATA`, the command completes
with `ERR = 0`. -/
def Obligations.LegalCommandsNeverFail : Prop :=
  (∀ (i : Instr) (s : State), ∃ t r, exec i s = .next t ∧ t.rsp = some r ∧ r.err = false) ∧
  (∀ (c : Command) (s : State), ¬ IllegalWord c.cw →
    ∃ t r, runCommand c s = .next t ∧ t.rsp = some r ∧ r.err = false)

/-- No step faults and none refuses, in any state, legal command or not (60_exceptions.md section 1; log 18); with an
idle host, and while a command waits, the step answers the state as it is (log 7). -/
def Obligations.StepAlwaysAnswersNext : Prop :=
  (∀ s : State, ∃ t, step s = .next t) ∧
  (∀ s : State, s.script = [] → step s = .next s) ∧
  (∀ (s : State) (c : Command) (rest : List HostMove), s.script = .command c :: rest → cmdReady s = false →
    step s = .next s)

/-- R161: after an illegal command the core is in exactly the state it was in before it, and the next legal command does
what it would have done without it, with `ERR = 0`. -/
def Obligations.ErrorIsNotSticky : Prop :=
  ∀ (bad good : Command) (s : State), IllegalWord bad.cw → ¬ IllegalWord good.cw → ∃ t u r,
    runCommand bad s = .next t ∧ RegsKept s t ∧ Untouched s t ∧
    runCommand good t = .next u ∧ runCommand good s = .next u ∧ u.rsp = some r ∧ r.err = false

/-! ## State, reads and writes -/

/-- Registers of 128 bits that do not alias (10_state.md section 1); a write writes both lanes at once; any value is a legal content;
the lanes are views of the one register. -/
def Obligations.RegisterFileWholeWrites : Prop :=
  ∀ (s : State) (i : SReg) (v : Block),
    (s.setReg i v).reg i = v ∧ (∀ r, r ≠ i → (s.setReg i v).reg r = s.reg r) ∧
    lo ((s.setReg i v).reg i) = v.extractLsb' 0 64 ∧ hi ((s.setReg i v).reg i) = v.extractLsb' 64 64 ∧
    mk (lo (s.reg i)) (hi (s.reg i)) = s.reg i

/-- The table of 10_state.md section 1 (under R21): a command writes no register but the one listed for it, and what it writes and responds depends on
no register but the one listed (and on the parameters). -/
def Obligations.CommandsReadAndWriteByTable : Prop :=
  (∀ (i : Instr) (s t : State), exec i s = .next t → ∀ r, written i ≠ some r → t.reg r = s.reg r) ∧
  (∀ (i : Instr) (s s' t t' : State), exec i s = .next t → exec i s' = .next t' → s.cfg = s'.cfg →
    (∀ r, readBy i = some r → s.reg r = s'.reg r) →
    t.rsp = t'.rsp ∧ ∀ r, written i = some r → t.reg r = t'.reg r)

/-- No event writes a state register but a legal command that lists it as its destination, once accepted, and reset
(10_state.md section 1, the table and the sentence under it; the events are the model's host moves, log 4). -/
def Obligations.RegistersChangeOnlyByCommandOrReset : Prop :=
  ∀ (s t : State) (r : SReg), step s = .next t → t.reg r ≠ s.reg r →
    (∃ rest, s.script = .rst true :: rest ∧ t.reg r = 0) ∨
    (∃ c rest i, s.script = .command c :: rest ∧ cmdReady s = true ∧ decodeCommand c = .ok i ∧ written i = some r)

/-- No step changes a parameter: they are immutable for the life of the hardware (00_scope.md section 4; 10_state.md
section 4; log 1). -/
def Obligations.ParametersAreImmutable : Prop :=
  ∀ s t : State, step s = .next t → t.cfg = s.cfg

/-! ## Reset and the ports -/

/-- R22: after reset every state register holds zero, a command that reads a register the host has not seeded reads zero,
and the parameters are the same before and after. -/
def Obligations.ResetStateIsZero : Prop :=
  State.reset.s0 = 0 ∧ State.reset.s1 = 0 ∧ State.reset.s2 = 0 ∧ State.reset.s3 = 0 ∧
  (∀ ss : SReg, ∃ t, exec (.get ss) State.reset = .next t ∧ t.rsp = some ⟨false, 0, 0⟩) ∧
  (∀ s : State, (∀ r, (takeReset s).reg r = 0) ∧ (takeReset s).cfg = s.cfg)

/-- Reset, from any state: every register takes zero, a response not yet taken is withdrawn, the parameters stay
(70_reset_and_hazards.md section 1; the move is the model's, log 4 and log 9). -/
def Obligations.ResetClearsRegistersAndResponse : Prop :=
  ∀ (s : State) (rest : List HostMove), s.script = .rst true :: rest → ∃ t, step s = .next t ∧
    (∀ r, t.reg r = 0) ∧ t.rsp = none ∧ t.rst = true ∧ t.cfg = s.cfg ∧ t.script = rest ∧ t.received = s.received

/-- While `rst` is high `cmd_ready = 0` and `rsp_valid = 0`, and no move of the host but driving it low ends that; after
it goes low the core is ready for its first command (70_reset_and_hazards.md section 1; log 9). -/
def Obligations.ResetHeldBlocksThePorts : Prop :=
  ∀ s : State, s.Inv → s.rst = true →
    cmdReady s = false ∧ rspValid s = false ∧
    (∀ t, step s = .next t → (∀ rest, s.script ≠ .rst false :: rest) →
      t.rst = true ∧ RegsKept s t ∧ t.rsp = none ∧ t.received = s.received) ∧
    (∀ rest, s.script = .rst false :: rest → ∃ t, step s = .next t ∧ cmdReady t = true ∧ rspValid t = false ∧
      RegsKept s t)

/-- One command at a time: from acceptance until the response has been taken `cmd_ready = 0`, and a command presented
meanwhile is not accepted; taking the response makes the core ready again (30_encoding.md section 6; log 7). -/
def Obligations.OneCommandInFlight : Prop :=
  (∀ (c : Command) (s : State), ∃ t, runCommand c s = .next t ∧ rspValid t = true ∧ cmdReady t = false) ∧
  (∀ (c : Command) (s : State) (rest : List HostMove), s.script = .command c :: rest → rspValid s = true →
    step s = .next s) ∧
  (∀ (s : State) (rest : List HostMove), s.script = .take :: rest → s.rst = false →
    ∃ t, step s = .next t ∧ cmdReady t = true)

/-- The host takes the response that is presented, and nothing else changes (30_encoding.md section 6; log 5). -/
def Obligations.TakeDeliversResponse : Prop :=
  ∀ (s : State) (r : Response) (rest : List HostMove), s.script = .take :: rest → s.rsp = some r →
    ∃ t, step s = .next t ∧ t.received = s.received ++ [r] ∧ t.rsp = none ∧ RegsKept s t ∧ t.cfg = s.cfg ∧
      t.rst = s.rst ∧ t.script = rest

/-- A step runs the decoded command: when the host's next move is a command the core can accept, the step is `exec` of
what its word and operand decode to, at the state with that move gone, or the exception when they decode to nothing
(00_scope.md section 5; log 4). -/
def Obligations.StepRunsDecodedCommand : Prop :=
  ∀ (s : State) (c : Command) (rest : List HostMove), s.script = .command c :: rest → cmdReady s = true →
    (∀ i, decodeCommand c = .ok i → step s = exec i (s.withScript rest)) ∧
    (∀ why, decodeCommand c = .error why → step s = raiseIllegalCommand (s.withScript rest))

/-- The bits of an instruction, placed where the core takes its next command, are the instruction the next step runs, at
the state with the ports free (log 10). -/
def Obligations.FetchedWordRuns : Prop :=
  ∀ (s : State) (nbits w : Nat) (i : Instr), decodeTableWord nbits w = some i →
    step (s.withFetchWord nbits w) = exec i ((s.withRsp none).withRst false)

/-! ## Whole-machine statements -/

/-- The invariant holds right after reset. That the configuration is legal there rests on the default parameters the
reset state carries (PRESUMED, log 2), and that `rst` is low on log 11. -/
def Obligations.ResetMeetsInvariant : Prop := State.reset.Inv

/-- Every step from a state that meets the invariant ends in one that does: the configuration stays legal (00_scope.md
R6), every response presented or taken is one of 30_encoding.md R70, and while `rst` is high the registers are zero and
no response is presented (70_reset_and_hazards.md section 1). -/
def Obligations.StepKeepsInvariant : Prop :=
  ∀ s t : State, s.Inv → step s = .next t → t.Inv

/-- One command is the total function of configuration, registers and command written in `coreFunction`: the
machine's registers and response after it are that function's, and it leaves everything else (00_scope.md section 5,
under R12). -/
def Obligations.CommandRefinesCoreFunction : Prop :=
  ∀ (c : Command) (s : State), ∃ t, runCommand c s = .next t ∧
    (∀ r, t.reg r = (coreFunction s.cfg s.reg c).1 r) ∧ t.rsp = some (coreFunction s.cfg s.reg c).2 ∧ Untouched s t

/-- A host that presents a list of commands and takes each response gets exactly one response per command, in order,
each command seeing the registers left by those before it, as the core function gives them (20_memory.md section 7;
30_encoding.md section 6; log 4, log 5). -/
def Obligations.HostProgramRefinesCoreRun : Prop :=
  ∀ (cs : List Command) (s : State) (rest : List HostMove), s.script = hostProgram cs ++ rest →
    cmdReady s = true → ∃ t, Host.Core.run core (2 * cs.length) s = .next t ∧
      t.received = s.received ++ (coreRun s.cfg s.reg cs).2 ∧
      (∀ r, t.reg r = (coreRun s.cfg s.reg cs).1 r) ∧ t.script = rest ∧ cmdReady t = true ∧ t.cfg = s.cfg

/-- Determinism across runs: two cores with the same configuration and registers, whatever else differs, given the same
list of commands return the same list of responses and end with the same registers (70_reset_and_hazards.md section 2;
log 4, log 5). -/
def Obligations.EqualCoresAnswerEqually : Prop :=
  ∀ (cs : List Command) (s t s' t' : State), s.cfg = t.cfg → (∀ r, s.reg r = t.reg r) →
    s.script = hostProgram cs → t.script = hostProgram cs → cmdReady s = true → cmdReady t = true →
    Host.Core.run core (2 * cs.length) s = .next s' → Host.Core.run core (2 * cs.length) t = .next t' →
    (∀ r, s'.reg r = t'.reg r) ∧
      ∃ rs, s'.received = s.received ++ rs ∧ t'.received = t.received ++ rs ∧ rs.length = cs.length

/-! ## Byte layout, the assembler, the configuration -/

/-- R41 with R9: the sixteen bytes of a block in order are its bytes from the least significant up, which is the eight
bytes of the low lane and then those of the high lane; and they determine the block. -/
def Obligations.CanonicalBlockBytes : Prop :=
  ∀ v : Block, (ser v).length = 16 ∧
    (∀ i, i < 16 → ((ser v).getD i 0).toNat = v.toNat / 256 ^ i % 256) ∧
    (∀ i, i < 8 → (ser v).getD i 0 = (lo v).extractLsb' (8 * i) 8 ∧
      (ser v).getD (8 + i) 0 = (hi v).extractLsb' (8 * i) 8) ∧
    blockOfBytes (ser v) = v

/-- The canonical stream of a run of any commands is, for each `MIX` among them in the order accepted, the bytes of
`blockA` followed by those of `blockB` of the value its source register then holds, and nothing of the other commands;
a run of `MIX` alone keeps the registers (20_memory.md section 2; the run is the model's, log 4, log 5, log 21). -/
def Obligations.MixStreamInCommandOrder : Prop :=
  (∀ (cs : List Command) (s : State) (rest : List HostMove), s.script = hostProgram cs ++ rest → cmdReady s = true →
    ∃ t rs, Host.Core.run core (2 * cs.length) s = .next t ∧ t.received = s.received ++ rs ∧ rs.length = cs.length ∧
      streamBytes cs rs = (mixedValues s.cfg s.reg cs).flatMap fun v => ser (blockA s.cfg v) ++ ser (blockB s.cfg v)) ∧
  ∀ (sources : List SReg) (s : State),
    s.script = hostProgram (sources.map fun ss => encode (.mix ss)) → cmdReady s = true → s.received = [] →
    ∃ t, Host.Core.run core (2 * sources.length) s = .next t ∧ RegsKept s t ∧
      streamBytes (sources.map fun ss => encode (.mix ss)) t.received =
        sources.flatMap fun ss => ser (blockA s.cfg (s.reg ss)) ++ ser (blockB s.cfg (s.reg ss))

/-- Each pseudo-instruction is the one command it expands to (30_encoding.md section 8, under R81), with the reason it
is exact: `MOV` copies, `ZERO` clears, the two-operand `SEED` sets the lanes, `JUMPB` undoes the jump by the same
distance, which the spec marks as derived (44_stream_derivation.md section 2, under R144). That a line is data whose
register numbers may be any natural numbers is the model's choice (log 14). -/
def Obligations.PseudoInstructionsExact : Prop :=
  (∀ sd : Nat, assemble (.advInPlace sd) = assemble (.adv sd sd) ∧
    assemble (.parInPlace sd) = assemble (.par sd sd) ∧ assemble (.zero sd) = assemble (.seed sd 0)) ∧
  (∀ sd ss : Nat, assemble (.mov sd ss) = assemble (.jump sd ss 0)) ∧
  (∀ sd n : Nat, assemble (.jumpInPlace sd n) = assemble (.jump sd sd n)) ∧
  (∀ sd l h : Nat, l < 2 ^ 64 → h < 2 ^ 64 →
    assemble (.seedLanes sd l h) = assemble (.seed sd (h * 2 ^ 64 + l)) ∧
    ∀ s : State, ∃ t, exec (expand (.seedLanes sd l h)) s = .next t ∧
      (lo (t.reg (registerNumbered sd))).toNat = l ∧ (hi (t.reg (registerNumbered sd))).toNat = h) ∧
  (∀ sd ss n : Nat, n < 2 ^ 64 →
    assemble (.jumpBack sd ss n) = assemble (.jump sd ss ((2 ^ 64 - n) % 2 ^ 64)) ∧
    ∀ s : State, ∃ t u, exec (expand (.jump sd ss n)) s = .next t ∧
      exec (expand (.jumpBack sd sd n)) t = .next u ∧
      u.reg (registerNumbered sd) = s.reg (registerNumbered ss)) ∧
  (∀ (sd ss : Nat) (s : State), ∃ t u, exec (expand (.mov sd ss)) s = .next t ∧
    t.reg (registerNumbered sd) = s.reg (registerNumbered ss) ∧
    exec (expand (.zero sd)) s = .next u ∧ u.reg (registerNumbered sd) = 0)

/-- The assembler's table: each line's command word and operand; a line whose register number or immediate does not fit
is refused (30_encoding.md section 8; log 14). -/
def Obligations.AssemblerEmitsCommandWords : Prop :=
  (∀ sd ss v n : Nat, sd < 4 → ss < 4 → v < 2 ^ 128 → n < 2 ^ 64 →
    assemble (.seed sd v) = some ⟨BitVec.ofNat 8 (0x20 + 4 * sd), BitVec.ofNat 128 v⟩ ∧
    assemble (.adv sd ss) = some ⟨BitVec.ofNat 8 (0x40 + 4 * sd + ss), 0⟩ ∧
    assemble (.mix ss) = some ⟨BitVec.ofNat 8 (0x60 + ss), 0⟩ ∧
    assemble (.jump sd ss n) = some ⟨BitVec.ofNat 8 (0x80 + 4 * sd + ss), BitVec.ofNat 128 n⟩ ∧
    assemble (.par sd ss) = some ⟨BitVec.ofNat 8 (0xA0 + 4 * sd + ss), 0⟩ ∧
    assemble (.get ss) = some ⟨BitVec.ofNat 8 (0xC0 + ss), 0⟩) ∧
  (∀ sd ss n : Nat, (4 ≤ sd ∨ 2 ^ 128 ≤ n → assemble (.seed sd n) = none) ∧
    (4 ≤ sd ∨ 4 ≤ ss ∨ 2 ^ 64 ≤ n → assemble (.jump sd ss n) = none) ∧
    (4 ≤ sd ∨ 4 ≤ ss → assemble (.adv sd ss) = none ∧ assemble (.par sd ss) = none) ∧
    (4 ≤ ss → assemble (.mix ss) = none ∧ assemble (.get ss) = none))

/-- A configuration is accepted exactly when it meets both constraints on `INC`: `INC[0] = 1`, and within each lane the
eight bytes pairwise different; the default meets both (00_scope.md section 4; log 2, log 12). -/
def Obligations.ConfigurationsMeetConstraints : Prop :=
  (∀ inc key : Block, Config.build inc key = some ⟨inc, key⟩ ↔
    (inc.toNat % 2 = 1 ∧
      ∀ i j, i < j → j < 8 → byte inc i ≠ byte inc j ∧ byte inc (8 + i) ≠ byte inc (8 + j))) ∧
  (∀ inc key : Block, Config.build inc key = some ⟨inc, key⟩ ∨ Config.build inc key = none) ∧
  defaultConfig.legal = true ∧ defaultConfig.key = defaultConfig.inc
end

