-- ==== Sys2Proof/Laws/Bytes.lean ====
section
/-!
SUPPORT. Lanes and bytes of a block: taking apart and putting together.
-/

namespace Sys2Proof.Machine

/-! ## Lanes -/

theorem toNat_lo (v : Block) : (lo v).toNat = v.toNat % 2 ^ 64 := by simp [lo]

theorem toNat_hi (v : Block) : (hi v).toNat = v.toNat / 2 ^ 64 := by
  have := v.isLt
  simp [hi, Nat.shiftRight_eq_div_pow]; omega

theorem toNat_mk (l h : Lane) : (mk l h).toNat = h.toNat * 2 ^ 64 + l.toNat := by
  have := l.isLt
  have := h.isLt
  simp only [mk, BitVec.toNat_ofNat]
  omega

@[simp] theorem lo_mk (l h : Lane) : lo (mk l h) = l := by
  have := l.isLt
  apply BitVec.eq_of_toNat_eq
  rw [toNat_lo, toNat_mk]; omega

@[simp] theorem hi_mk (l h : Lane) : hi (mk l h) = h := by
  have := l.isLt
  apply BitVec.eq_of_toNat_eq
  rw [toNat_hi, toNat_mk]; omega

@[simp] theorem mk_lo_hi (v : Block) : mk (lo v) (hi v) = v := by
  apply BitVec.eq_of_toNat_eq
  rw [toNat_mk, toNat_lo, toNat_hi]; omega

/-- Two blocks with equal lanes are equal. -/
theorem block_ext {u v : Block} (hl : lo u = lo v) (hh : hi u = hi v) : u = v := by
  rw [← mk_lo_hi u, ← mk_lo_hi v, hl, hh]

theorem lo_add (u v : Block) : lo (u + v) = lo u + lo v := by
  apply BitVec.eq_of_toNat_eq
  simp only [toNat_lo, BitVec.toNat_add]
  omega

@[simp] theorem jumpOperand_jumpData (n : Lane) : jumpOperand (jumpData n) = n := lo_mk n 0

/-! ## Bytes -/

theorem getLsbD_byte (v : Block) (i j : Nat) : (byte v i).getLsbD j = (decide (j < 8) && v.getLsbD (8 * i + j)) := by
  simp [byte]

/-- Two blocks with equal bytes are equal. -/
theorem byte_ext {u v : Block} (h : ∀ i, i < 16 → byte u i = byte v i) : u = v := by
  apply BitVec.eq_of_getLsbD_eq
  intro k hk
  have e := congrArg (fun b => b.getLsbD (k % 8)) (h (k / 8) (by omega))
  simp only [getLsbD_byte] at e
  rw [show 8 * (k / 8) + k % 8 = k by omega] at e
  simpa [Nat.mod_lt] using e

theorem byte_blockOfBytes_zero (b : Byte) (bs : List Byte) : byte (blockOfBytes (b :: bs)) 0 = b := by
  apply BitVec.eq_of_getLsbD_eq
  intro k hk
  have h : k < 128 := by omega
  rw [getLsbD_byte]
  simp [blockOfBytes, hk, h]

theorem byte_blockOfBytes_succ (b : Byte) (bs : List Byte) (i : Nat) (h : i + 1 < 16) :
    byte (blockOfBytes (b :: bs)) (i + 1) = byte (blockOfBytes bs) i := by
  apply BitVec.eq_of_getLsbD_eq
  intro k hk
  simp only [getLsbD_byte, blockOfBytes, BitVec.getLsbD_or, BitVec.getLsbD_shiftLeft, BitVec.getLsbD_setWidth]
  rw [BitVec.getLsbD_of_ge b (8 * (i + 1) + k) (by omega), show 8 * (i + 1) + k - 8 = 8 * i + k by omega]
  have h1 : 8 * (i + 1) + k < 128 := by omega
  have h2 : ¬ 8 * (i + 1) + k < 8 := by omega
  simp [h1, h2]

/-- Byte `i` of the block made of a list of bytes is the list's entry `i`, zero past its end. -/
theorem byte_blockOfBytes (bs : List Byte) (i : Nat) (h : i < 16) : byte (blockOfBytes bs) i = bs.getD i 0 := by
  induction bs generalizing i with
  | nil => simp [blockOfBytes, byte]
  | cons b bs ih =>
    cases i with
    | zero => simpa using byte_blockOfBytes_zero b bs
    | succ i => rw [byte_blockOfBytes_succ b bs i h, ih i (by omega)]; simp

@[simp] theorem length_ser (v : Block) : (ser v).length = 16 := by simp [ser]

/-- A block is the block of its sixteen bytes. -/
@[simp] theorem blockOfBytes_ser (v : Block) : blockOfBytes (ser v) = v := by
  apply byte_ext
  intro i h
  rw [byte_blockOfBytes _ _ h]
  simp [ser, List.getD, h]

/-- Sixteen bytes are the bytes of their block. -/
theorem ser_blockOfBytes {bs : List Byte} (h : bs.length = 16) : ser (blockOfBytes bs) = bs := by
  apply List.ext_getElem (by simp [h])
  intro i h1 h2
  have hi : i < 16 := by omega
  simp [ser, byte_blockOfBytes bs i hi, List.getD, h2]

end Sys2Proof.Machine
end

