-- ==== Sys2Proof/Laws/Aes.lean ====
section
/-!
SUPPORT. The parts of an AES round: the byte state of a value, the tables, the field, the row shifts.
-/

namespace Sys2Proof.Machine

/-! ## The byte state (R111) -/

/-- Putting a state together and taking it apart gives it back. -/
@[simp] theorem aesState_aesBlock (x : AesState) : aesState (aesBlock x) = x := by
  obtain ⟨⟨_, _, _, _⟩, ⟨_, _, _, _⟩, ⟨_, _, _, _⟩, ⟨_, _, _, _⟩⟩ := x
  simp [aesState, aesBlock, byte_blockOfBytes, aesBytes, columnBytes]

/-- The bytes of a value in the order of R111 are its canonical bytes. -/
theorem aesBytes_aesState (v : Block) : aesBytes (aesState v) = ser v := rfl

@[simp] theorem aesBlock_aesState (v : Block) : aesBlock (aesState v) = v := by
  rw [aesBlock, aesBytes_aesState, blockOfBytes_ser]

/-- Byte `i` of a state's value is entry `i` of its bytes. -/
theorem byte_aesBlock (x : AesState) (i : Nat) (h : i < 16) : byte (aesBlock x) i = (aesBytes x).getD i 0 :=
  byte_blockOfBytes _ i h

theorem byte_xor (u v : Block) (i : Nat) : byte (u ^^^ v) i = byte u i ^^^ byte v i := by
  apply BitVec.eq_of_getLsbD_eq
  intro k hk
  simp only [getLsbD_byte, BitVec.getLsbD_xor, hk]
  simp

/-! ## The tables (R114) -/

/-- `INV_SBOX[SBOX[a]] = a`. -/
@[simp] theorem invSbox_sbox (a : Byte) : invSbox (sbox a) = a := by revert a; decide

/-- `SBOX[INV_SBOX[a]] = a`. -/
@[simp] theorem sbox_invSbox (a : Byte) : sbox (invSbox a) = a := by revert a; decide

/-! ## The field (R112) -/

/-- Doubling is additive in the field. -/
theorem xtime_xor (a b : Byte) : xtime (a ^^^ b) = xtime a ^^^ xtime b := by
  simp only [xtime, BitVec.shiftLeft_xor_distrib, BitVec.getLsbD_xor]
  have h : ∀ x y c : Byte, x ^^^ y = x ^^^ c ^^^ (y ^^^ c) := fun x y c => by
    rw [show x ^^^ c ^^^ (y ^^^ c) = x ^^^ y ^^^ (c ^^^ c) by ac_rfl, BitVec.xor_self, BitVec.xor_zero]
  cases a.getLsbD 7 <;> cases b.getLsbD 7
  · simp
  · simp; ac_rfl
  · simp; ac_rfl
  · simpa using h (a <<< 1) (b <<< 1) 0x1B

theorem mul2_xor (a b : Byte) : mul2 (a ^^^ b) = mul2 a ^^^ mul2 b := xtime_xor a b

/-! ## Shifting rows (R116) -/

@[simp] theorem invShiftRows_shiftRows (x : AesState) : invShiftRows (shiftRows x) = x := rfl
@[simp] theorem shiftRows_invShiftRows (x : AesState) : shiftRows (invShiftRows x) = x := rfl

@[simp] theorem invSubBytes_subBytes (x : AesState) : invSubBytes (subBytes x) = x := by
  simp [invSubBytes, subBytes, mapColumns, mapColumn]
@[simp] theorem subBytes_invSubBytes (x : AesState) : subBytes (invSubBytes x) = x := by
  simp [invSubBytes, subBytes, mapColumns, mapColumn]

end Sys2Proof.Machine
end

