-- ==== Sys2Proof/Laws/Decode.lean ====
section
/-!
SUPPORT. The parts of decoding and encoding: register indexes, command words, records.
-/

namespace Sys2Proof

open Sys2Proof.Machine

@[simp] theorem registerOf_registerIndex (r : SReg) : registerOf (registerIndex r) = r := by cases r <;> rfl

@[simp] theorem registerIndex_registerOf (x : BitVec 2) : registerIndex (registerOf x) = x := by
  revert x; decide

/-- The fields of a command word are what it was made of, and its reserved bit is zero. -/
theorem fields_commandWord (op : BitVec 3) (sd ss : BitVec 2) :
    opField (commandWord op sd ss) = op ∧ zField (commandWord op sd ss) = 0 ∧
      sdField (commandWord op sd ss) = sd ∧ ssField (commandWord op sd ss) = ss := by
  revert op sd ss; decide

@[simp] theorem opField_commandWord (op : BitVec 3) (sd ss : BitVec 2) : opField (commandWord op sd ss) = op :=
  (fields_commandWord op sd ss).1
@[simp] theorem zField_commandWord (op : BitVec 3) (sd ss : BitVec 2) : zField (commandWord op sd ss) = 0 :=
  (fields_commandWord op sd ss).2.1
@[simp] theorem sdField_commandWord (op : BitVec 3) (sd ss : BitVec 2) : sdField (commandWord op sd ss) = sd :=
  (fields_commandWord op sd ss).2.2.1
@[simp] theorem ssField_commandWord (op : BitVec 3) (sd ss : BitVec 2) : ssField (commandWord op sd ss) = ss :=
  (fields_commandWord op sd ss).2.2.2

/-- A word with the reserved bit clear is the word of its fields. -/
theorem commandWord_fields (cw : Byte) (h : zField cw = 0) : commandWord (opField cw) (sdField cw) (ssField cw) = cw := by
  revert cw; decide

/-- Everything decoding can answer: an illegal word, by one of the conditions of 30_encoding.md R69, or one of the six
commands with its fields. -/
theorem decode_cases (cw : Byte) (data : Block) :
    ((zField cw ≠ 0 ∨ (opField cw).toNat = 0 ∨ (opField cw).toNat = 7 ∨
        ((opField cw).toNat = 1 ∧ ssField cw ≠ 0) ∨ ((opField cw).toNat = 3 ∧ sdField cw ≠ 0) ∨
        ((opField cw).toNat = 6 ∧ sdField cw ≠ 0)) ∧ ∃ why, decode cw data = .error why) ∨
    (zField cw = 0 ∧ opField cw = 1 ∧ ssField cw = 0 ∧
      decode cw data = .ok (.seed (registerOf (sdField cw)) (seedOperand data))) ∨
    (zField cw = 0 ∧ opField cw = 2 ∧
      decode cw data = .ok (.adv (registerOf (sdField cw)) (registerOf (ssField cw)))) ∨
    (zField cw = 0 ∧ opField cw = 3 ∧ sdField cw = 0 ∧ decode cw data = .ok (.mix (registerOf (ssField cw)))) ∨
    (zField cw = 0 ∧ opField cw = 4 ∧
      decode cw data = .ok (.jump (registerOf (sdField cw)) (registerOf (ssField cw)) (jumpOperand data))) ∨
    (zField cw = 0 ∧ opField cw = 5 ∧
      decode cw data = .ok (.par (registerOf (sdField cw)) (registerOf (ssField cw)))) ∨
    (zField cw = 0 ∧ opField cw = 6 ∧ sdField cw = 0 ∧ decode cw data = .ok (.get (registerOf (ssField cw)))) := by
  have hop : ∀ x : BitVec 3, x = 0 ∨ x = 1 ∨ x = 2 ∨ x = 3 ∨ x = 4 ∨ x = 5 ∨ x = 6 ∨ x = 7 := by decide
  by_cases hz : zField cw = 0
  · unfold decode
    rw [if_neg (not_not.mpr hz)]
    rcases hop (opField cw) with h | h | h | h | h | h | h | h <;> rw [h]
    · exact .inl ⟨.inr (.inl rfl), _, rfl⟩
    · by_cases hs : ssField cw = 0
      · exact .inr (.inl ⟨hz, rfl, hs, if_pos hs⟩)
      · exact .inl ⟨.inr (.inr (.inr (.inl ⟨rfl, hs⟩))), _, if_neg hs⟩
    · exact .inr (.inr (.inl ⟨hz, rfl, rfl⟩))
    · by_cases hd : sdField cw = 0
      · exact .inr (.inr (.inr (.inl ⟨hz, rfl, hd, if_pos hd⟩)))
      · exact .inl ⟨.inr (.inr (.inr (.inr (.inl ⟨rfl, hd⟩)))), _, if_neg hd⟩
    · exact .inr (.inr (.inr (.inr (.inl ⟨hz, rfl, rfl⟩))))
    · exact .inr (.inr (.inr (.inr (.inr (.inl ⟨hz, rfl, rfl⟩)))))
    · by_cases hd : sdField cw = 0
      · exact .inr (.inr (.inr (.inr (.inr (.inr ⟨hz, rfl, hd, if_pos hd⟩)))))
      · exact .inl ⟨.inr (.inr (.inr (.inr (.inr ⟨rfl, hd⟩)))), _, if_neg hd⟩
    · exact .inl ⟨.inr (.inr (.inl rfl)), _, rfl⟩
  · exact .inl ⟨.inl hz, .reservedBit, by unfold decode; exact if_pos hz⟩

/-- A record followed by any bytes spells its command, and those bytes are left. -/
@[simp] theorem commandOfBytes_recordOf (c : Command) (rest : List Byte) :
    commandOfBytes (recordOf c ++ rest) = some (c, rest) := by
  simp [commandOfBytes, recordOf, dataBytes]

/-- Decoding a record is decoding its command. -/
theorem decodeBytes_recordOf (c : Command) (rest : List Byte) :
    decodeBytes (recordOf c ++ rest) =
      match decodeCommand c with
      | .ok i => .ok (i, rest)
      | .error why => .error (.illegal why) := by
  cases h : decodeCommand c <;> simp [decodeBytes, h]

end Sys2Proof
end

