-- ==== Sys2Proof/Laws/State.lean ====
section
/-!
SUPPORT. One lemma per field per update of the state, so that no later proof unfolds a record update.
-/

namespace Sys2Proof.Machine

/-! ## Reading and writing registers -/

@[simp] theorem reg_setReg_same (s : State) (i : SReg) (v : Block) : (s.setReg i v).reg i = v := by
  cases i <;> rfl

@[simp] theorem reg_setReg_ne (s : State) {i r : SReg} (h : r ≠ i) (v : Block) : (s.setReg i v).reg r = s.reg r := by
  cases i <;> cases r <;> first | rfl | exact absurd rfl h

theorem reg_setReg (s : State) (i r : SReg) (v : Block) :
    (s.setReg i v).reg r = if r = i then v else s.reg r := by
  by_cases h : r = i
  · subst h; simp
  · simp [h]

/-- A state is its registers and its other fields. -/
theorem State.ext_reg {s t : State} (hc : s.cfg = t.cfg) (hr : ∀ i, s.reg i = t.reg i) (hp : s.rsp = t.rsp)
    (hl : s.rst = t.rst) (hs : s.script = t.script) (ht : s.received = t.received) : s = t := by
  have h0 := hr .s0
  have h1 := hr .s1
  have h2 := hr .s2
  have h3 := hr .s3
  cases s
  cases t
  simp_all [State.reg]

@[simp] theorem cfg_setReg (s : State) (i : SReg) (v : Block) : (s.setReg i v).cfg = s.cfg := by cases i <;> rfl
@[simp] theorem rsp_setReg (s : State) (i : SReg) (v : Block) : (s.setReg i v).rsp = s.rsp := by cases i <;> rfl
@[simp] theorem rst_setReg (s : State) (i : SReg) (v : Block) : (s.setReg i v).rst = s.rst := by cases i <;> rfl
@[simp] theorem script_setReg (s : State) (i : SReg) (v : Block) : (s.setReg i v).script = s.script := by
  cases i <;> rfl
@[simp] theorem received_setReg (s : State) (i : SReg) (v : Block) : (s.setReg i v).received = s.received := by
  cases i <;> rfl

/-! ## One lemma per field per update -/

@[simp] theorem reg_withRsp (s : State) (r : Option Response) (i : SReg) : (s.withRsp r).reg i = s.reg i := by cases i <;> rfl
@[simp] theorem cfg_withRsp (s : State) (r : Option Response) : (s.withRsp r).cfg = s.cfg := rfl
@[simp] theorem rsp_withRsp (s : State) (r : Option Response) : (s.withRsp r).rsp = r := rfl
@[simp] theorem rst_withRsp (s : State) (r : Option Response) : (s.withRsp r).rst = s.rst := rfl
@[simp] theorem script_withRsp (s : State) (r : Option Response) : (s.withRsp r).script = s.script := rfl
@[simp] theorem received_withRsp (s : State) (r : Option Response) : (s.withRsp r).received = s.received := rfl

@[simp] theorem reg_withRst (s : State) (b : Bool) (i : SReg) : (s.withRst b).reg i = s.reg i := by cases i <;> rfl
@[simp] theorem cfg_withRst (s : State) (b : Bool) : (s.withRst b).cfg = s.cfg := rfl
@[simp] theorem rsp_withRst (s : State) (b : Bool) : (s.withRst b).rsp = s.rsp := rfl
@[simp] theorem rst_withRst (s : State) (b : Bool) : (s.withRst b).rst = b := rfl
@[simp] theorem script_withRst (s : State) (b : Bool) : (s.withRst b).script = s.script := rfl
@[simp] theorem received_withRst (s : State) (b : Bool) : (s.withRst b).received = s.received := rfl

@[simp] theorem reg_withScript (s : State) (ms : List HostMove) (i : SReg) : (s.withScript ms).reg i = s.reg i := by cases i <;> rfl
@[simp] theorem cfg_withScript (s : State) (ms : List HostMove) : (s.withScript ms).cfg = s.cfg := rfl
@[simp] theorem rsp_withScript (s : State) (ms : List HostMove) : (s.withScript ms).rsp = s.rsp := rfl
@[simp] theorem rst_withScript (s : State) (ms : List HostMove) : (s.withScript ms).rst = s.rst := rfl
@[simp] theorem script_withScript (s : State) (ms : List HostMove) : (s.withScript ms).script = ms := rfl
@[simp] theorem received_withScript (s : State) (ms : List HostMove) : (s.withScript ms).received = s.received := rfl

@[simp] theorem reg_withTaken (s : State) (r : Response) (i : SReg) : (s.withTaken r).reg i = s.reg i := by cases i <;> rfl
@[simp] theorem cfg_withTaken (s : State) (r : Response) : (s.withTaken r).cfg = s.cfg := rfl
@[simp] theorem rsp_withTaken (s : State) (r : Response) : (s.withTaken r).rsp = s.rsp := rfl
@[simp] theorem rst_withTaken (s : State) (r : Response) : (s.withTaken r).rst = s.rst := rfl
@[simp] theorem script_withTaken (s : State) (r : Response) : (s.withTaken r).script = s.script := rfl
@[simp] theorem received_withTaken (s : State) (r : Response) : (s.withTaken r).received = s.received ++ [r] := rfl

@[simp] theorem reg_zeroRegs (s : State) (i : SReg) : (s.zeroRegs).reg i = 0 := by cases i <;> rfl
@[simp] theorem cfg_zeroRegs (s : State) : (s.zeroRegs).cfg = s.cfg := rfl
@[simp] theorem rsp_zeroRegs (s : State) : (s.zeroRegs).rsp = s.rsp := rfl
@[simp] theorem rst_zeroRegs (s : State) : (s.zeroRegs).rst = s.rst := rfl
@[simp] theorem script_zeroRegs (s : State) : (s.zeroRegs).script = s.script := rfl
@[simp] theorem received_zeroRegs (s : State) : (s.zeroRegs).received = s.received := rfl

/-! ## Reset -/

@[simp] theorem reg_takeReset (s : State) (i : SReg) : (takeReset s).reg i = 0 := by cases i <;> rfl
@[simp] theorem rsp_takeReset (s : State) : (takeReset s).rsp = none := rfl
@[simp] theorem cfg_takeReset (s : State) : (takeReset s).cfg = s.cfg := rfl
@[simp] theorem rst_takeReset (s : State) : (takeReset s).rst = s.rst := rfl
@[simp] theorem script_takeReset (s : State) : (takeReset s).script = s.script := rfl
@[simp] theorem received_takeReset (s : State) : (takeReset s).received = s.received := rfl

@[simp] theorem cfg_driveRst (b : Bool) (s : State) : (driveRst b s).cfg = s.cfg := by cases b <;> rfl
@[simp] theorem rst_driveRst (b : Bool) (s : State) : (driveRst b s).rst = b := by cases b <;> rfl
@[simp] theorem script_driveRst (b : Bool) (s : State) : (driveRst b s).script = s.script := by cases b <;> rfl
@[simp] theorem received_driveRst (b : Bool) (s : State) : (driveRst b s).received = s.received := by cases b <;> rfl
@[simp] theorem reg_driveRst_high (s : State) (i : SReg) : (driveRst true s).reg i = 0 := by cases i <;> rfl
@[simp] theorem reg_driveRst_low (s : State) (i : SReg) : (driveRst false s).reg i = s.reg i := by cases i <;> rfl
@[simp] theorem rsp_driveRst_high (s : State) : (driveRst true s).rsp = none := rfl
@[simp] theorem rsp_driveRst_low (s : State) : (driveRst false s).rsp = s.rsp := rfl

/-! ## Taking the response -/

theorem takeResponse_some {s : State} {r : Response} (h : s.rsp = some r) :
    takeResponse s = (s.withTaken r).withRsp none := by
  simp [takeResponse, h]

theorem takeResponse_none {s : State} (h : s.rsp = none) : takeResponse s = s := by
  simp [takeResponse, h]

@[simp] theorem reg_takeResponse (s : State) (i : SReg) : (takeResponse s).reg i = s.reg i := by
  unfold takeResponse; split <;> simp
@[simp] theorem cfg_takeResponse (s : State) : (takeResponse s).cfg = s.cfg := by
  unfold takeResponse; split <;> rfl
@[simp] theorem rst_takeResponse (s : State) : (takeResponse s).rst = s.rst := by
  unfold takeResponse; split <;> rfl
@[simp] theorem script_takeResponse (s : State) : (takeResponse s).script = s.script := by
  unfold takeResponse; split <;> rfl
@[simp] theorem rsp_takeResponse (s : State) : (takeResponse s).rsp = none := by
  unfold takeResponse; split <;> simp_all

/-! ## Presenting a command -/

@[simp] theorem reg_presentCommand (c : Command) (s : State) (i : SReg) : (presentCommand c s).reg i = s.reg i := by
  cases i <;> rfl
@[simp] theorem cfg_presentCommand (c : Command) (s : State) : (presentCommand c s).cfg = s.cfg := rfl
@[simp] theorem script_presentCommand (c : Command) (s : State) :
    (presentCommand c s).script = .command c :: s.script := rfl
@[simp] theorem received_presentCommand (c : Command) (s : State) : (presentCommand c s).received = s.received := rfl
@[simp] theorem cmdReady_presentCommand (c : Command) (s : State) : cmdReady (presentCommand c s) = true := rfl

/-! ## The ports -/

/-- `cmd_ready` is high exactly when `rst` is low and no response is outstanding. -/
theorem cmdReady_iff (s : State) : cmdReady s = true ↔ s.rst = false ∧ s.rsp = none := by
  simp [cmdReady]

@[simp] theorem rspValid_iff (s : State) : rspValid s = true ↔ ∃ r, s.rsp = some r := by
  simp [rspValid, Option.isSome_iff_exists]

end Sys2Proof.Machine
end

