-- ==== Sys2Proof/Laws/Exec.lean ====
section
/-!
SUPPORT. What each shared operation and each meaning answers, said once; and what one step can do.
-/

namespace Sys2Proof.Machine

/-! ## The shared operations -/

/-- A completing command answers a next state with that response and nothing else changed. -/
theorem respond_eq (d0 d1 : Block) (s : State) : respond d0 d1 s = .next (s.withRsp (some ⟨false, d0, d1⟩)) := rfl

/-- The one exception answers a next state with the response `(1, 0, 0)` and nothing else changed. -/
theorem raiseIllegalCommand_eq (s : State) : raiseIllegalCommand s = .next (s.withRsp (some ⟨true, 0, 0⟩)) := rfl

/-- A command that writes one register and responds with zeros: everything it does. -/
theorem respond_setReg (sd : SReg) (v d0 d1 : Block) (s : State) :
    ∃ t, respond d0 d1 (s.setReg sd v) = .next t ∧ t.reg sd = v ∧ OthersKept sd s t ∧
      t.rsp = some ⟨false, d0, d1⟩ ∧ Untouched s t := by
  refine ⟨_, rfl, by simp, fun r h => by simp [h], rfl, ?_⟩
  constructor <;> simp

/-- A command that writes no register: everything it does. -/
theorem respond_reads (d0 d1 : Block) (s : State) :
    ∃ t, respond d0 d1 s = .next t ∧ RegsKept s t ∧ t.rsp = some ⟨false, d0, d1⟩ ∧ Untouched s t :=
  ⟨_, rfl, fun r => by simp, rfl, ⟨rfl, rfl, rfl, rfl⟩⟩

/-! ## The canonical stream -/

@[simp] theorem streamBytes_nil (rs : List Response) : streamBytes [] rs = [] := rfl
@[simp] theorem streamBytes_unanswered (cs : List Command) : streamBytes cs [] = [] := by cases cs <;> rfl
@[simp] theorem streamBytes_cons (c : Command) (cs : List Command) (r : Response) (rs : List Response) :
    streamBytes (c :: cs) (r :: rs) = commandPart c r ++ streamBytes cs rs := rfl

/-- A MIX adds its 32 bytes. -/
theorem commandPart_mix {c : Command} {ss : SReg} (h : decodeCommand c = .ok (.mix ss)) (r : Response) :
    commandPart c r = ser r.d0 ++ ser r.d1 := by
  simp [commandPart, h, streamPart, outputBytes]

/-- A legal command that is no MIX adds nothing. -/
theorem commandPart_other {c : Command} {i : Instr} (h : decodeCommand c = .ok i) (hi : ∀ ss, i ≠ .mix ss)
    (r : Response) : commandPart c r = [] := by
  cases i with
  | mix ss => exact absurd rfl (hi ss)
  | seed _ _ => simp [commandPart, h, streamPart]
  | adv _ _ => simp [commandPart, h, streamPart]
  | jump _ _ _ => simp [commandPart, h, streamPart]
  | par _ _ => simp [commandPart, h, streamPart]
  | get _ => simp [commandPart, h, streamPart]

/-- An illegal command adds nothing. -/
theorem commandPart_illegal {c : Command} {why : Illegal} (h : decodeCommand c = .error why) (r : Response) :
    commandPart c r = [] := by
  simp [commandPart, h]

/-! ## The reference's parts -/

theorem Regs.write_same (S : Regs) (i : SReg) (v : Block) : S.write i v i = v := by simp [Regs.write]

theorem Regs.write_ne (S : Regs) {i r : SReg} (h : r ≠ i) (v : Block) : S.write i v r = S r := by
  simp [Regs.write, h]

/-- The fields of the command word, as bits and as numbers. -/
theorem fields_as_numbers (cw : Byte) :
    (opField cw).toNat = opOf cw ∧ (zField cw ≠ 0 ↔ zOf cw = 1) ∧ (sdField cw ≠ 0 ↔ sdOf cw ≠ 0) ∧
      (ssField cw ≠ 0 ↔ ssOf cw ≠ 0) ∧ registerOf (sdField cw) = regOf (sdOf cw) ∧
      registerOf (ssField cw) = regOf (ssOf cw) := by
  revert cw; decide

/-! ## One command and one step -/

/-- A command whose word is legal is its instruction's meaning. -/
theorem runCommand_ok {c : Command} {i : Instr} (h : decodeCommand c = .ok i) (s : State) :
    runCommand c s = exec i s := by
  simp [runCommand, h]

/-- A command whose word is illegal is the exception. -/
theorem runCommand_error {c : Command} {why : Illegal} (h : decodeCommand c = .error why) (s : State) :
    runCommand c s = raiseIllegalCommand s := by
  simp [runCommand, h]

/-- Everything one step can do. -/
theorem step_cases (s : State) :
    (s.script = [] ∧ step s = .next s) ∨
    (∃ b rest, s.script = .rst b :: rest ∧ step s = .next (driveRst b (s.withScript rest))) ∨
    (∃ rest, s.script = .take :: rest ∧ step s = .next (takeResponse (s.withScript rest))) ∨
    (∃ c rest, s.script = .command c :: rest ∧ cmdReady s = false ∧ step s = .next s) ∨
    (∃ c rest, s.script = .command c :: rest ∧ cmdReady s = true ∧
      step s = runCommand c (s.withScript rest)) := by
  match h : s.script with
  | [] => exact .inl ⟨rfl, by simp [step, nextMove, h]⟩
  | .rst b :: rest => exact .inr (.inl ⟨b, rest, rfl, by simp [step, nextMove, h]⟩)
  | .take :: rest => exact .inr (.inr (.inl ⟨rest, rfl, by simp [step, nextMove, h]⟩))
  | .command c :: rest =>
    cases hr : cmdReady s
    · exact .inr (.inr (.inr (.inl ⟨c, rest, rfl, rfl, by simp [step, nextMove, h, hr]⟩)))
    · exact .inr (.inr (.inr (.inr ⟨c, rest, rfl, rfl, by simp [step, nextMove, h, hr]⟩)))

end Sys2Proof.Machine
end

