-- ==== Sys2Proof/Laws/PerInstr.lean ====
section
/-!
SUPPORT. Facts about every command as written, one lemma per constructor of `Instr`.
-/

namespace Sys2Proof.Laws.TableRow

open Sys2Proof
open Sys2Proof.Machine

/-- The `mask` of a command's row of the opcode map (30_encoding.md R65). -/
def mask : Instr → Byte
  | .seed _ _ => 0xF3
  | .adv _ _ => 0xF0
  | .mix _ => 0xFC
  | .jump _ _ _ => 0xF0
  | .par _ _ => 0xF0
  | .get _ => 0xFC

/-- The `match` of a command's row of the opcode map (R65). -/
def pattern : Instr → Byte
  | .seed _ _ => 0x20
  | .adv _ _ => 0x40
  | .mix _ => 0x60
  | .jump _ _ _ => 0x80
  | .par _ _ => 0xA0
  | .get _ => 0xC0

/-- The word the encoder writes for a command selects the command's own row, and is none of the illegal words of
R69. -/
def Statement (i : Instr) : Prop := encodeWord i &&& mask i = pattern i ∧ ¬ IllegalWord (encodeWord i)

theorem seed (sd : SReg) (imm128 : Block) : Statement (.seed sd imm128) := by
  show commandWord 1 (registerIndex sd) 0 &&& 0xF3 = 0x20 ∧ ¬ IllegalWord (commandWord 1 (registerIndex sd) 0)
  cases sd <;> decide

theorem adv (sd ss : SReg) : Statement (.adv sd ss) := by
  show commandWord 2 (registerIndex sd) (registerIndex ss) &&& 0xF0 = 0x40 ∧ ¬ IllegalWord (commandWord 2 (registerIndex sd) (registerIndex ss))
  cases sd <;> cases ss <;> decide

theorem mix (ss : SReg) : Statement (.mix ss) := by
  show commandWord 3 0 (registerIndex ss) &&& 0xFC = 0x60 ∧ ¬ IllegalWord (commandWord 3 0 (registerIndex ss))
  cases ss <;> decide

theorem jump (sd ss : SReg) (n : Lane) : Statement (.jump sd ss n) := by
  show commandWord 4 (registerIndex sd) (registerIndex ss) &&& 0xF0 = 0x80 ∧ ¬ IllegalWord (commandWord 4 (registerIndex sd) (registerIndex ss))
  cases sd <;> cases ss <;> decide

theorem par (sd ss : SReg) : Statement (.par sd ss) := by
  show commandWord 5 (registerIndex sd) (registerIndex ss) &&& 0xF0 = 0xA0 ∧ ¬ IllegalWord (commandWord 5 (registerIndex sd) (registerIndex ss))
  cases sd <;> cases ss <;> decide

theorem get (ss : SReg) : Statement (.get ss) := by
  show commandWord 6 0 (registerIndex ss) &&& 0xFC = 0xC0 ∧ ¬ IllegalWord (commandWord 6 0 (registerIndex ss))
  cases ss <;> decide

end Sys2Proof.Laws.TableRow
end

