-- ==== Sys2Proof/Tests/Slice0.lean ====
section
/-!
SUPPORT. Tests: what is refused as ill formed, words written out from the encodings, single commands with values from
spec 95_test_vectors.md and from the section files, and for each statement with hypotheses a witness that meets them.
-/

namespace Sys2Proof.Tests

open Sys2Proof
open Sys2Proof.Machine

/-! ## Well-formedness (30_encoding.md R80, 00_scope.md R6): for each check a term it refuses -/

theorem test_register_refused : registerFits 4 = false ∧ registerFits 3 = true := by decide
theorem test_block_refused : blockFits (2 ^ 128) = false ∧ blockFits (2 ^ 128 - 1) = true := by decide
theorem test_lane_refused : laneFits (2 ^ 64) = false ∧ laneFits (2 ^ 64 - 1) = true := by decide

theorem test_line_seed_refused :
    (AsmLine.seed 4 0).wellFormed = false ∧ (AsmLine.seed 0 (2 ^ 128)).wellFormed = false := by decide
theorem test_line_adv_refused :
    (AsmLine.adv 4 0).wellFormed = false ∧ (AsmLine.adv 0 4).wellFormed = false := by decide
theorem test_line_mix_refused : (AsmLine.mix 4).wellFormed = false := by decide
theorem test_line_jump_refused :
    (AsmLine.jump 4 0 0).wellFormed = false ∧ (AsmLine.jump 0 4 0).wellFormed = false ∧
      (AsmLine.jump 0 0 (2 ^ 64)).wellFormed = false := by decide
theorem test_line_par_refused :
    (AsmLine.par 4 0).wellFormed = false ∧ (AsmLine.par 0 4).wellFormed = false := by decide
theorem test_line_get_refused : (AsmLine.get 4).wellFormed = false := by decide
theorem test_line_in_place_refused :
    (AsmLine.advInPlace 4).wellFormed = false ∧ (AsmLine.parInPlace 4).wellFormed = false ∧
      (AsmLine.jumpInPlace 4 0).wellFormed = false ∧ (AsmLine.jumpInPlace 0 (2 ^ 64)).wellFormed = false := by decide
theorem test_line_mov_zero_refused :
    (AsmLine.mov 4 0).wellFormed = false ∧ (AsmLine.mov 0 4).wellFormed = false ∧
      (AsmLine.zero 4).wellFormed = false := by decide
theorem test_line_seedLanes_refused :
    (AsmLine.seedLanes 4 0 0).wellFormed = false ∧ (AsmLine.seedLanes 0 (2 ^ 64) 0).wellFormed = false ∧
      (AsmLine.seedLanes 0 0 (2 ^ 64)).wellFormed = false := by decide
theorem test_line_jumpBack_refused :
    (AsmLine.jumpBack 4 0 0).wellFormed = false ∧ (AsmLine.jumpBack 0 4 0).wellFormed = false ∧
      (AsmLine.jumpBack 0 0 (2 ^ 64)).wellFormed = false := by decide
theorem test_assemble_refuses : assemble (.get 4) = none := by decide

/-- R6 (a): the default with its low bit cleared. -/
theorem test_even_increment_refused :
    Config.build 0x2F2B29251F1D1713110D0B0705030200 0 = none := by decide
/-- R6 (b): a byte twice in the low lane, a byte twice in the high lane. -/
theorem test_repeated_byte_refused :
    Config.build 0x2F2B29251F1D1713110D0B0705030101 0 = none ∧
      Config.build 0x2F2F29251F1D1713110D0B0705030201 0 = none := by decide
/-- R6 (b) is per lane (92_eei_decisions.md D21): the same byte in both lanes is accepted. -/
theorem test_byte_in_both_lanes_accepted :
    (Config.build 0x012B29251F1D1713110D0B0705030201 0).isSome = true := by decide

/-! ## Decoding: words bit by bit (30_encoding.md R62, R65; 95_test_vectors.md 2.7) -/

theorem test_decode_seed : decode 0b00101100#8 5 = .ok (.seed .s3 5) := rfl
theorem test_decode_adv : decode 0b01001011#8 5 = .ok (.adv .s2 .s3) := rfl
theorem test_decode_mix : decode 0b01100011#8 5 = .ok (.mix .s3) := rfl
theorem test_decode_jump :
    decode 0b10000100#8 0xFFFFFFFFFFFFFFFFDEADBEEFCAFEF00D = .ok (.jump .s1 .s0 0xDEADBEEFCAFEF00D) := rfl
theorem test_decode_par : decode 0b10101110#8 5 = .ok (.par .s3 .s2) := rfl
theorem test_decode_get : decode 0b11000010#8 5 = .ok (.get .s2) := rfl

theorem test_illegal_op0 : decode 0b00000000#8 5 = .error .opcodeZero := rfl
theorem test_illegal_op7 : decode 0b11101111#8 5 = .error .opcodeSeven := rfl
theorem test_illegal_z : decode 0b10011010#8 5 = .error .reservedBit := rfl
theorem test_illegal_seed : decode 0b00100001#8 5 = .error .seedSource := rfl
theorem test_illegal_mix : decode 0b01100100#8 5 = .error .mixDestination := rfl
theorem test_illegal_get : decode 0b11001000#8 5 = .error .getDestination := rfl

/-- The record of `SEED s3, 1, 2` (95_test_vectors.md 2.1), with one byte after it. -/
theorem test_decode_record :
    decodeBytes ([0x2C, 1, 0, 0, 0, 0, 0, 0, 0] ++ [2, 0, 0, 0, 0, 0, 0, 0, 0x99]) =
      .ok (.seed .s3 0x00000000000000020000000000000001, [0x99]) := rfl
/-- The record of `JUMPB s0, s0, 0xDEADBEEFCAFEF00D` (95_test_vectors.md, program 6). -/
theorem test_assemble_jumpBack :
    (assemble (.jumpBack 0 0 0xDEADBEEFCAFEF00D)).map recordOf =
      some ([0x80, 0xF3, 0x0F, 0x01, 0x35, 0x10, 0x41, 0x52, 0x21] ++ [0, 0, 0, 0, 0, 0, 0, 0]) := by decide
/-- Sixteen bytes are no record; an illegal word is rejected by name. -/
theorem test_decode_bytes_rejects :
    decodeBytes (List.replicate 16 0x40) = .error .truncated ∧
      decodeBytes (List.replicate 17 0xE0) = .error (.illegal .opcodeSeven) := ⟨rfl, rfl⟩
/-- The opcode table's numbering: eight bits, the operand zero; and a whole record of 136 bits. -/
theorem test_decode_table_word :
    decodeTableWord 8 0x84 = some (.jump .s1 .s0 0) ∧ decodeTableWord 8 0x50 = none ∧
      decodeTableWord 136 0x0720 = some (.seed .s0 7) := ⟨rfl, rfl, rfl⟩

/-! ## One command each -/

/-- Reset, with the first two registers and the host's next moves replaced. -/
def start (a b : Block) (moves : List HostMove) : State := { State.reset with s0 := a, s1 := b, script := moves }

/-- The four registers and the response after an answer. -/
def seen : Result → Option (List Block × Option Response)
  | .next t => some ([t.s0, t.s1, t.s2, t.s3], t.rsp)
  | .fault _ => none
  | .refused _ => none

/-- 95_test_vectors.md 2.1. -/
theorem test_seed_overwrites :
    seen (exec (.seed .s1 0xFFFFFFFFFFFFFFFFFFFFFFFFFFFFFFFF) (start 3 4 [])) =
      some ([3, 0xFFFFFFFFFFFFFFFFFFFFFFFFFFFFFFFF, 0, 0], some ⟨false, 0, 0⟩) := by decide
theorem test_get_returns :
    seen (exec (.get .s1) (start 0 0x0123456789ABCDEFFEDCBA9876543210 [])) =
      some ([0, 0x0123456789ABCDEFFEDCBA9876543210, 0, 0],
        some ⟨false, 0x0123456789ABCDEFFEDCBA9876543210, 0⟩) := by decide

/-- 95_test_vectors.md 2.2: the low carry is what wraps the high lane; and the two-register form. -/
theorem test_adv_carry :
    seen (exec (.adv .s0 .s0) (start 0xD0D4D6DAE0E2E8ECFFFFFFFFFFFFFFFF 0 [])) =
      some ([0x0000000000000000110D0B0705030200, 0, 0, 0], some ⟨false, 0, 0⟩) := by decide
theorem test_adv_two_registers :
    seen (exec (.adv .s1 .s0) (start 0 7 [])) =
      some ([0, 0x2F2B29251F1D1713110D0B0705030201, 0, 0], some ⟨false, 0, 0⟩) := by decide

/-- 95_test_vectors.md 2.5: no carry between the lanes; the general value. -/
theorem test_jump_no_carry :
    seen (exec (.jump .s1 .s0 1) (start 0xFFFFFFFFFFFFFFFFFFFFFFFFFFFFFFFF 0 [])) =
      some ([0xFFFFFFFFFFFFFFFFFFFFFFFFFFFFFFFF, 0x2F2B29251F1D1712110D0B0705030200, 0, 0],
        some ⟨false, 0, 0⟩) := by decide
theorem test_jump_far :
    seen (exec (.jump .s0 .s1 0xDEADBEEFCAFEF00D) (start 0 0x0123456789ABCDEFFEDCBA9876543210 [])) =
      some ([0xAF68A14446A1C9E6B3C0D426505A3C1D, 0x0123456789ABCDEFFEDCBA9876543210, 0, 0],
        some ⟨false, 0, 0⟩) := by decide

/-- 95_test_vectors.md 2.6. -/
theorem test_par_general :
    seen (exec (.par .s1 .s0) (start 0x0123456789ABCDEFFEDCBA9876543210 0 [])) =
      some ([0x0123456789ABCDEFFEDCBA9876543210, 0x2CE32D2335DF4552FEDCBA9876543210, 0, 0],
        some ⟨false, 0, 0⟩) := by decide
theorem test_par_same_register :
    seen (exec (.par .s0 .s0) (start 0xFFFFFFFFFFFFFFFF0000000000001234 0 [])) =
      some ([0xBBB38751AAD202220000000000001234, 0, 0, 0], some ⟨false, 0, 0⟩) := by decide

/-- 95_test_vectors.md S1: the spec's candidate for the golden pair, through the value it gives for `penultimate`. -/
theorem test_penultimate :
    penultimate defaultConfig 0x2F2B29251F1D1713110D0B0705030201 = 0x558D5AD559AE34E4927C56072438CA35 := by
  decide
theorem test_mix_golden_blocks :
    encRound 0x558D5AD559AE34E4927C56072438CA35 defaultConfig.key = 0xC33A396483155F506C302FD512E826E6 ∧
      decRound 0x558D5AD559AE34E4927C56072438CA35 defaultConfig.key = 0x5068ACA6BF8BE05EE74BF1C4337EACB1 := by
  decide
theorem test_mix_golden_pair :
    seen (exec (.mix .s0) (start 0x2F2B29251F1D1713110D0B0705030201 0 [])) =
      some ([0x2F2B29251F1D1713110D0B0705030201, 0, 0, 0],
        some ⟨false, 0xC33A396483155F506C302FD512E826E6, 0x5068ACA6BF8BE05EE74BF1C4337EACB1⟩) := by
  have h : exec (.mix .s0) (start 0x2F2B29251F1D1713110D0B0705030201 0 []) =
      respond (encRound (penultimate defaultConfig 0x2F2B29251F1D1713110D0B0705030201) defaultConfig.key)
        (decRound (penultimate defaultConfig 0x2F2B29251F1D1713110D0B0705030201) defaultConfig.key)
        (start 0x2F2B29251F1D1713110D0B0705030201 0 []) := rfl
  rw [h, test_penultimate, test_mix_golden_blocks.1, test_mix_golden_blocks.2]
  rfl

/-- 95_test_vectors.md, program 7: an illegal word with a non-zero operand. -/
theorem test_illegal_command :
    seen (runCommand ⟨0xE0, 0xDEADBEEF00000000CAFEF00D12345678⟩ (start 1 2 [])) =
      some ([1, 2, 0, 0], some ⟨true, 0, 0⟩) := by decide
theorem test_illegal_adv :
    seen (runCommand ⟨0x50, 0⟩ (start 1 2 [])) = some ([1, 2, 0, 0], some ⟨true, 0, 0⟩) := by decide

/-! ## The parts of a round (42_aes_round.md; 95_test_vectors.md 2.3) -/

theorem test_round_byte0 :
    encRound 0x00000000000000000000000000000080 0 = 0x6363636363636363636363638ACDCD24 ∧
      decRound 0x00000000000000000000000000000080 0 = 0x52525252525252525252525287EC5754 := by decide
theorem test_round_byte15 :
    encRound 0x80000000000000000000000000000000 0 = 0x636363636363636363636363248ACDCD ∧
      decRound 0x80000000000000000000000000000000 0 = 0x525252525487EC575252525252525252 := by decide
theorem test_round_key :
    encRound 0x00112233445566778899AABBCCDDEEFF 0x0F0E0D0C0B0A09080706050403020100 =
        0xA10FAC1CCEA25D52051D5F57AFFE285C ∧
      decRound 0x00112233445566778899AABBCCDDEEFF 0x0F0E0D0C0B0A09080706050403020100 =
        0x4904694F5B8D84A91F490652300A0CA5 := by decide
/-- 42_aes_round.md R112: its own checks. -/
theorem test_field :
    xtime 0x80 = 0x1B ∧ xtime 0x57 = 0xAE ∧ mul3 0x57 = 0xF9 ∧ mul9 0x80 = 0xEC ∧ mul11 0x80 = 0xF7 ∧
      mul13 0x80 = 0xDA ∧ mul14 0x80 = 0x41 := by decide

/-- 20_memory.md R41: its example. -/
theorem test_ser :
    ser 0x2F2B29251F1D1713110D0B0705030201 =
      [0x01, 0x02, 0x03, 0x05, 0x07, 0x0B, 0x0D, 0x11, 0x13, 0x17, 0x1D, 0x1F, 0x25, 0x29, 0x2B, 0x2F] := by decide

/-- The stream of a run with other commands in it: 95_test_vectors.md, program 1, the 32 bytes of S1. -/
theorem test_stream_of_mixed_run :
    streamBytes [⟨0x40, 0⟩, ⟨0x60, 0⟩, ⟨0xC0, 0⟩]
        [⟨false, 0, 0⟩, ⟨false, 0xC33A396483155F506C302FD512E826E6, 0x5068ACA6BF8BE05EE74BF1C4337EACB1⟩,
          ⟨false, 0x2F2B29251F1D1713110D0B0705030201, 0⟩] =
      [0xE6, 0x26, 0xE8, 0x12, 0xD5, 0x2F, 0x30, 0x6C, 0x50, 0x5F, 0x15, 0x83, 0x64, 0x39, 0x3A, 0xC3] ++
        [0xB1, 0xAC, 0x7E, 0x33, 0xC4, 0xF1, 0x4B, 0xE7, 0x5E, 0xE0, 0x8B, 0xBF, 0xA6, 0xAC, 0x68, 0x50] := by
  decide

/-! ## The increment engine at reduced width (41_increment.md R106; 95_test_vectors.md 3.2) -/

/-- The first seventeen states from 0. -/
theorem test_analog_states :
    ((List.range 17).map fun k => (addStep (0x35 : BitVec 8))^[k] 0) =
      [0x00, 0x35, 0x6A, 0x9F, 0xD4, 0x09, 0x3E, 0x73, 0xA8, 0xDD, 0x12, 0x47, 0x7C, 0xB1, 0xE6, 0x1B, 0x50] := by
  decide

/-! ## The ports -/

/-- A response not yet taken is withdrawn by reset, and the registers are cleared (70_reset_and_hazards.md R180). -/
theorem test_reset_move :
    seen (step { start 5 6 [.rst true] with rsp := some ⟨false, 1, 2⟩ }) = some ([0, 0, 0, 0], none) := by decide
/-- The bits of a table row, placed and run: `ADV s1, s0` straight after reset. -/
theorem test_fetch_word :
    seen (step (State.reset.withFetchWord 8 0x44)) =
      some ([0, 0x2F2B29251F1D1713110D0B0705030201, 0, 0], some ⟨false, 0, 0⟩) := by decide

/-! ## Witnesses: for each statement with hypotheses, values that meet them -/

/-- EncodeDecodeGivesBackWord: one command from two operands, and the largest legal word. -/
theorem witness_EncodeDecodeGivesBackWord :
    decode 0x4B 0 = .ok (.adv .s2 .s3) ∧ decode 0x4B 1 = .ok (.adv .s2 .s3) ∧ decode 0xC3 0 = .ok (.get .s3) :=
  ⟨rfl, rfl, rfl⟩

/-- IllegalCommandChangesNothing, ErrorIsNotSticky: words at the ends of each condition of R69, and the legal words
beside them. -/
theorem witness_IllegalWord :
    ∀ cw ∈ [0x00#8, 0x1F, 0xE0, 0xFF, 0x30, 0xD1, 0x21, 0x2F, 0x64, 0x6F, 0xC4, 0xCF], IllegalWord cw := by decide
theorem witness_LegalWord :
    ∀ cw ∈ [0x20#8, 0x2C, 0x40, 0x4F, 0x60, 0x63, 0x80, 0x8F, 0xA0, 0xAF, 0xC0, 0xC3], ¬ IllegalWord cw := by decide
theorem witness_IllegalCommandChangesNothing :
    IllegalWord (0xFF : Byte) ∧ ∃ why, decode 0xFF 0 = .error why := ⟨by decide, _, rfl⟩
theorem witness_LegalCommandsNeverFail : ¬ IllegalWord (⟨0x8F, 7⟩ : Command).cw := by decide
theorem witness_ErrorIsNotSticky :
    IllegalWord (⟨0xE0, 1⟩ : Command).cw ∧ ¬ IllegalWord (⟨0x63, 1⟩ : Command).cw := by decide

/-- OpcodeMapSelectsCommands: each row's first and last word is selected by its mask and match. -/
theorem witness_OpcodeMapSelectsCommands :
    (0x2C : Byte) &&& 0xF3 = 0x20 ∧ (0x4F : Byte) &&& 0xF0 = 0x40 ∧ (0x63 : Byte) &&& 0xFC = 0x60 ∧
      (0x8F : Byte) &&& 0xF0 = 0x80 ∧ (0xAF : Byte) &&& 0xF0 = 0xA0 ∧ (0xC3 : Byte) &&& 0xFC = 0xC0 := by decide

/-- OperandsAssembledFromData: operands that differ in the bits `JUMP` ignores; a word that ignores all of them. -/
theorem witness_OperandsAssembledFromData :
    decode 0x24 9 = .ok (.seed .s1 9) ∧ decode 0x87 (mk 9 1) = .ok (.jump .s1 .s3 9) ∧
      written (.jump .s1 .s3 9) = some .s1 ∧ readBy (.jump .s1 .s3 9) = some .s3 :=
  ⟨rfl, rfl, rfl, rfl⟩
theorem witness_OperandsIgnored :
    opOf 0x87 = 4 ∧ (mk 9 0).toNat % 2 ^ 64 = (mk 9 0xFFFFFFFFFFFFFFFF).toNat % 2 ^ 64 ∧
      mk 9 0 ≠ mk 9 0xFFFFFFFFFFFFFFFF ∧ opOf 0x4B ≠ 1 ∧ opOf 0x4B ≠ 4 := by decide

/-- SeedLoadsRegister, GetReturnsRegister, MixReturnsBothBlocks: an unused field that is not zero. -/
theorem witness_UnusedFieldNonzero : SReg.s1 ≠ .s0 ∧ SReg.s2 ≠ .s0 ∧ SReg.s3 ≠ .s0 := by decide

/-- LowLaneFullPeriod, WholeStateFullPeriod, ParallelStreamDistance, ParallelStreamBlocksDiffer,
AdvanceFreshensBothBlocks: the default increment is odd, and so is that of a core at reset. -/
theorem witness_OddIncrement : defaultConfig.incOdd = true ∧ State.reset.cfg.incOdd = true := by decide
theorem witness_LowLaneFullPeriod :
    defaultConfig.incOdd = true ∧ 0 < 1 ∧ 1 < 2 ^ 64 ∧ 0 < 2 ^ 64 - 1 ∧ 2 ^ 64 - 1 < 2 ^ 64 := by decide
theorem witness_WholeStateFullPeriod :
    defaultConfig.incOdd = true ∧ 0 < 2 ^ 128 - 1 ∧ 2 ^ 128 - 1 < 2 ^ 128 := by decide
theorem witness_ParallelStreamDistance :
    defaultConfig.incOdd = true ∧ 0 < 2 ^ 64 ∧ 2 ^ 64 - 1 < 2 ^ 64 := by decide
theorem witness_ParallelStreamBlocksDiffer :
    defaultConfig.incOdd = true ∧ 0 < 2 ^ 64 ∧ 2 ^ 64 - 1 < 2 ^ 64 := by decide
theorem witness_AdvanceFreshensBothBlocks : State.reset.cfg.incOdd = true := by decide

/-- JumpAgainstRepeatedAdvance: from 0, the last distance without a wrap and the first with one
(95_test_vectors.md 3.1). -/
theorem witness_JumpAgainstRepeatedAdvance :
    15 < 2 ^ 64 ∧ 15 * (lo defaultConfig.inc).toNat < 2 ^ 64 ∧ ¬ 16 * (lo defaultConfig.inc).toNat < 2 ^ 64 ∧
      carries defaultConfig 0 16 = 1 ∧ carries defaultConfig 0 10000 = 666 ∧ 2 ^ 64 - 1 < 2 ^ 64 := by decide
/-- The statement's two outcomes at those distances. -/
theorem witness_JumpAgainstRepeatedAdvance_values :
    jump defaultConfig 0 15 = (advance defaultConfig)^[15] 0 ∧
      jump defaultConfig 0 16 = 0xF2B29251F1D1713010D0B07050302010 ∧
      (advance defaultConfig)^[16] 0 = 0xF2B29251F1D1713110D0B07050302010 := by decide
/-- RepeatedParCyclesHighLane. -/
theorem witness_RepeatedParCyclesHighLane : 0 < 1 ∧ 1 < 2 ^ 64 ∧ 2 ^ 64 - 1 < 2 ^ 64 := by decide

/-- EncRoundBytes, DecRoundBytes, ShiftRowsIndexLists, CanonicalBlockBytes: the ends of the index ranges. -/
theorem witness_IndexRanges : 0 < 4 ∧ 3 < 4 ∧ 0 < 16 ∧ 15 < 16 ∧ 0 < 8 ∧ 7 < 8 := by decide
/-- SubstitutionTablesAlgebraic: a byte that is not 0. -/
theorem witness_SubstitutionTablesAlgebraic : (1 : Byte) ≠ 0 ∧ (0xFF : Byte) ≠ 0 := by decide
/-- OneByteReachesOneColumn: two different values that agree beyond byte 0. -/
theorem witness_OneByteReachesOneColumn :
    (0x00 : Block) ≠ 0xFF ∧ (∀ i, 0 < i → i < 16 → byte 0x00 i = byte 0xFF i) ∧ 4 ≤ 4 ∧ 15 < 16 := by
  refine ⟨by decide, ?_, by decide, by decide⟩
  intro i h0 h1
  interval_cases i <;> decide

/-- MixDependsOnStateAndKey: one value in different registers of cores that differ in everything else. -/
theorem witness_MixDependsOnStateAndKey :
    (start 7 1 []).reg .s0 = (start 2 7 [.take]).reg .s1 ∧ (start 7 1 []).cfg.key = (start 2 7 [.take]).cfg.key := by
  decide
/-- MixBlocksAreInjective: equal keys, different states; the inner premises are met by equal states. -/
theorem witness_MixBlocksAreInjective :
    (start 7 1 []).cfg.key = (start 8 1 []).cfg.key ∧ (start 7 1 []).reg .s0 ≠ (start 8 1 []).reg .s0 := by decide
theorem witness_MixBlocksAreInjective_equal :
    ∃ s' t' r q, exec (.mix .s0) (start 7 1 []) = .next s' ∧ s'.rsp = some r ∧
      exec (.mix .s1) (start 0 7 []) = .next t' ∧ t'.rsp = some q ∧ r.d0 = q.d0 ∧ r.d1 = q.d1 :=
  ⟨_, _, _, _, rfl, rfl, rfl, rfl, rfl, rfl⟩

/-- RegisterFileWholeWrites. -/
theorem witness_RegisterFileWholeWrites : SReg.s3 ≠ .s0 := by decide
/-- CommandsReadAndWriteByTable: both clauses, the states differing in a register that is not read. -/
theorem witness_CommandsReadAndWriteByTable :
    (∃ t, exec (.adv .s1 .s0) (start 1 2 []) = .next t) ∧ written (.adv .s1 .s0) ≠ some .s0 ∧
      (∃ t, exec (.adv .s1 .s0) (start 1 3 []) = .next t) ∧ (start 1 2 []).cfg = (start 1 3 []).cfg ∧
      (∀ r, readBy (.adv .s1 .s0) = some r → (start 1 2 []).reg r = (start 1 3 []).reg r) := by
  refine ⟨⟨_, rfl⟩, by decide, ⟨_, rfl⟩, rfl, ?_⟩
  intro r h
  cases h
  rfl
/-- RegistersChangeOnlyByCommandOrReset: a change by reset, and one by a command. -/
theorem witness_RegistersChangeOnlyByCommandOrReset :
    (∃ t, step (start 1 2 [.rst true]) = .next t ∧ t.reg .s0 ≠ (start 1 2 [.rst true]).reg .s0) ∧
      (∃ t, step (start 1 2 [.command ⟨0x20, 9⟩]) = .next t ∧
        t.reg .s0 ≠ (start 1 2 [.command ⟨0x20, 9⟩]).reg .s0) :=
  ⟨⟨_, rfl, by decide⟩, ⟨_, rfl, by decide⟩⟩
/-- ParametersAreImmutable. -/
theorem witness_ParametersAreImmutable : ∃ t, step (start 1 2 [.command ⟨0x44, 0⟩]) = .next t := ⟨_, rfl⟩

/-- ResetClearsRegistersAndResponse. -/
theorem witness_ResetClearsRegistersAndResponse : (start 1 2 [.rst true, .take]).script = .rst true :: [.take] := rfl

/-- A core held in reset. -/
def held (moves : List HostMove) : State := { start 0 0 moves with rst := true }

theorem held_inv (moves : List HostMove) : (held moves).Inv where
  legal := show defaultConfig.legal = true by decide
  presented := fun r h => nomatch h
  taken := fun r h => nomatch h
  inReset := fun _ => ⟨fun i => by cases i <;> rfl, rfl⟩

/-- ResetHeldBlocksThePorts: a command waiting, and the release. -/
theorem witness_ResetHeldBlocksThePorts :
    (held [.command ⟨0x20, 9⟩]).Inv ∧ (held [.command ⟨0x20, 9⟩]).rst = true ∧
      (∃ t, step (held [.command ⟨0x20, 9⟩]) = .next t) ∧
      (∀ rest, (held [.command ⟨0x20, 9⟩]).script ≠ .rst false :: rest) :=
  ⟨held_inv _, rfl, ⟨_, rfl⟩, fun _ h => nomatch h⟩
theorem witness_ResetHeldBlocksThePorts_release :
    (held [.rst false]).Inv ∧ (held [.rst false]).rst = true ∧ (held [.rst false]).script = .rst false :: [] :=
  ⟨held_inv _, rfl, rfl⟩

/-- OneCommandInFlight: a command waiting behind a response; the host taking it. -/
theorem witness_OneCommandInFlight :
    ({ start 0 0 [.command ⟨0x40, 0⟩] with rsp := some ⟨false, 0, 0⟩ } : State).script = .command ⟨0x40, 0⟩ :: [] ∧
      rspValid { start 0 0 [.command ⟨0x40, 0⟩] with rsp := some ⟨false, 0, 0⟩ } = true ∧
      (start 0 0 [.take]).script = .take :: [] ∧ (start 0 0 [.take]).rst = false := ⟨rfl, rfl, rfl, rfl⟩
/-- TakeDeliversResponse. -/
theorem witness_TakeDeliversResponse :
    ({ start 0 0 [.take] with rsp := some ⟨false, 3, 0⟩ } : State).script = .take :: [] ∧
      ({ start 0 0 [.take] with rsp := some ⟨false, 3, 0⟩ } : State).rsp = some ⟨false, 3, 0⟩ := ⟨rfl, rfl⟩
/-- StepRunsDecodedCommand: a legal word and an illegal one. -/
theorem witness_StepRunsDecodedCommand :
    (start 1 2 [.command ⟨0x44, 0⟩]).script = .command ⟨0x44, 0⟩ :: [] ∧
      cmdReady (start 1 2 [.command ⟨0x44, 0⟩]) = true ∧ decodeCommand ⟨0x44, 0⟩ = .ok (.adv .s1 .s0) ∧
      cmdReady (start 1 2 [.command ⟨0xE0, 0⟩]) = true ∧ decodeCommand ⟨0xE0, 0⟩ = .error .opcodeSeven :=
  ⟨rfl, rfl, rfl, rfl, rfl⟩
/-- FetchedWordRuns. -/
theorem witness_FetchedWordRuns : decodeTableWord 8 0xA4 = some (.par .s1 .s0) := rfl

/-- StepKeepsInvariant. -/
theorem witness_StepKeepsInvariant :
    (held [.rst false]).Inv ∧ ∃ t, step (held [.rst false]) = .next t := ⟨held_inv _, _, rfl⟩

/-- HostProgramRefinesCoreRun, EqualCoresAnswerEqually: two cores with one list of commands. -/
def pair : List Command := [⟨0x20, 9⟩, ⟨0xC0, 0⟩]

theorem witness_HostProgramRefinesCoreRun :
    (start 1 2 (hostProgram pair ++ [.rst true])).script = hostProgram pair ++ [.rst true] ∧
      cmdReady (start 1 2 (hostProgram pair ++ [.rst true])) = true := ⟨rfl, rfl⟩
theorem witness_EqualCoresAnswerEqually :
    (start 1 2 (hostProgram pair)).cfg =
        ({ start 1 2 (hostProgram pair) with received := [⟨false, 5, 0⟩] } : State).cfg ∧
      (∃ s', Host.Core.run core (2 * pair.length) (start 1 2 (hostProgram pair)) = .next s') ∧
      (∃ t', Host.Core.run core (2 * pair.length)
        { start 1 2 (hostProgram pair) with received := [⟨false, 5, 0⟩] } = .next t') ∧
      cmdReady (start 1 2 (hostProgram pair)) = true := ⟨rfl, ⟨_, rfl⟩, ⟨_, rfl⟩, rfl⟩
theorem witness_EqualCoresAnswerEqually_registers (r : SReg) :
    (start 1 2 (hostProgram pair)).reg r =
      ({ start 1 2 (hostProgram pair) with received := [⟨false, 5, 0⟩] } : State).reg r := by cases r <;> rfl
/-- StepAlwaysAnswersNext: an idle host; a command waiting in reset. -/
theorem witness_StepAlwaysAnswersNext :
    (start 1 2 []).script = [] ∧ (held [.command ⟨0x40, 0⟩]).script = .command ⟨0x40, 0⟩ :: [] ∧
      cmdReady (held [.command ⟨0x40, 0⟩]) = false := ⟨rfl, rfl, rfl⟩

/-- MixStreamInCommandOrder: a run of three different commands, one of them illegal; a run of MIX alone. -/
theorem witness_MixStreamInCommandOrder_mixed :
    (start 1 2 (hostProgram [⟨0x40, 0⟩, ⟨0x60, 0⟩, ⟨0xE0, 0⟩] ++ [.rst true])).script =
        hostProgram [⟨0x40, 0⟩, ⟨0x60, 0⟩, ⟨0xE0, 0⟩] ++ [.rst true] ∧
      cmdReady (start 1 2 (hostProgram [⟨0x40, 0⟩, ⟨0x60, 0⟩, ⟨0xE0, 0⟩] ++ [.rst true])) = true := ⟨rfl, rfl⟩
theorem witness_MixStreamInCommandOrder :
    (start 1 2 (hostProgram ([SReg.s0, .s1].map fun ss => encode (.mix ss)))).script =
        hostProgram ([SReg.s0, .s1].map fun ss => encode (.mix ss)) ∧
      cmdReady (start 1 2 (hostProgram ([SReg.s0, .s1].map fun ss => encode (.mix ss)))) = true ∧
      (start 1 2 (hostProgram ([SReg.s0, .s1].map fun ss => encode (.mix ss)))).received = [] := ⟨rfl, rfl, rfl⟩

/-- OpcodeMapSelectsCommands, OperandsAssembledFromData: a legal word with both fields. -/
theorem witness_RegisterFields :
    decode 0x8E 7 = .ok (.jump .s3 .s2 7) ∧ numberOf .s3 = sdOf 0x8E ∧ numberOf .s2 = ssOf 0x8E := ⟨rfl, rfl, rfl⟩

/-- PseudoInstructionsExact, AssemblerEmitsCommandWords: the ends of each range; `JUMPB` by 0 emits distance 0. -/
theorem witness_AssemblerRanges :
    0 < 4 ∧ 3 < 4 ∧ 2 ^ 128 - 1 < 2 ^ 128 ∧ 2 ^ 64 - 1 < 2 ^ 64 ∧ (2 ^ 64 - 0) % 2 ^ 64 = 0 ∧ 4 ≤ 4 ∧
      2 ^ 128 ≤ 2 ^ 128 ∧ 2 ^ 64 ≤ 2 ^ 64 := by decide
theorem witness_AssemblerEmitsCommandWords :
    assemble (.seed 3 (2 ^ 128 - 1)) = some ⟨0x2C, 0xFFFFFFFFFFFFFFFFFFFFFFFFFFFFFFFF⟩ ∧
      assemble (.jump 3 3 (2 ^ 64 - 1)) = some ⟨0x8F, 0x0000000000000000FFFFFFFFFFFFFFFF⟩ ∧
      assemble (.jump 0 0 (2 ^ 64)) = none ∧ assemble (.seed 4 0) = none := by decide
/-- ConfigurationsMeetConstraints. -/
theorem witness_ConfigurationsMeetConstraints :
    Config.build defaultInc 0 = some ⟨defaultInc, 0⟩ ∧ 0 < 1 ∧ 6 < 7 ∧ 7 < 8 := by decide

end Sys2Proof.Tests
end

section
/-!
PROOFS. The state after reset (spec 10_state.md R22).
-/

namespace Sys2Proof.Machine

@[simp] theorem reg_reset (r : SReg) : State.reset.reg r = 0 := by cases r <;> rfl

/-- GET answers with the register it reads, writes no register and touches nothing else (40_seed_get.md R92). -/
theorem exec_get_reads (ss : SReg) (s : State) :
    ∃ t, exec (.get ss) s = .next t ∧ RegsKept s t ∧ t.rsp = some ⟨false, s.reg ss, 0⟩ ∧ Untouched s t :=
  respond_reads (s.reg ss) 0 s

/-- Settles O43: every register of the reset state reads zero, so GET, which answers with what it reads, answers zero;
the reset of any other state is `reg_takeReset` and `cfg_takeReset`. -/
theorem resetStateIsZero : Obligations.ResetStateIsZero := by
  refine ⟨reg_reset .s0, reg_reset .s1, reg_reset .s2, reg_reset .s3, fun ss => ?_,
    fun s => ⟨reg_takeReset s, cfg_takeReset s⟩⟩
  obtain ⟨t, hexec, -, hrsp, -⟩ := exec_get_reads ss State.reset
  rw [reg_reset] at hrsp
  exact ⟨t, hexec, hrsp⟩

end Sys2Proof.Machine
end

section
/-!
PROOFS. The canonical bytes of a block (spec 20_memory.md R41, 00_scope.md R9).
-/

namespace Sys2Proof.Machine

/-- Byte `i` is the digit of weight `256^i` of the block's number. -/
theorem toNat_byte (v : Block) (i : Nat) : (byte v i).toNat = v.toNat / 256 ^ i % 256 := by
  have hweight : 2 ^ (8 * i) = 256 ^ i := Nat.pow_mul 2 8 i
  rw [byte, BitVec.extractLsb'_toNat, Nat.shiftRight_eq_div_pow, hweight]

theorem getD_ser (v : Block) {i : Nat} (h : i < 16) : (ser v).getD i 0 = byte v i := by
  rw [← byte_blockOfBytes (ser v) i h, blockOfBytes_ser]

/-- A byte inside the low lane is a byte of the block. -/
theorem extractLsb'_lo (v : Block) {i : Nat} (h : i < 8) : (lo v).extractLsb' (8 * i) 8 = byte v i :=
  BitVec.extractLsb'_extractLsb'_of_le (by omega)

/-- The high lane's bytes are the block's from byte 8 on. -/
theorem extractLsb'_hi (v : Block) {i : Nat} (h : i < 8) : (hi v).extractLsb' (8 * i) 8 = byte v (8 + i) := by
  apply BitVec.eq_of_getLsbD_eq
  intro k hk
  have hin : 8 * i + k < 64 := by omega
  have hoffset : 64 + (8 * i + k) = 8 * (8 + i) + k := by omega
  simp [getLsbD_byte, hi, hin, hoffset]

/-- Settles O55: entry `i` of the canonical bytes is byte `i`, which is a digit of the block's number and, within its
half, a byte of a lane; that the bytes determine the block is `blockOfBytes_ser`. -/
theorem canonicalBlockBytes : Obligations.CanonicalBlockBytes := by
  intro v
  refine ⟨length_ser v, fun i hlt => ?_, fun i hlt => ⟨?_, ?_⟩, blockOfBytes_ser v⟩
  · rw [getD_ser v hlt, toNat_byte]
  · rw [getD_ser v (by omega), extractLsb'_lo v hlt]
  · rw [getD_ser v (by omega), extractLsb'_hi v hlt]

end Sys2Proof.Machine
end

section
/-!
PROOFS. The encoding of commands: what a decoded command says about its word, which words are illegal and what they
do, the rows of the opcode map, and the part `DATA` takes (spec 30_encoding.md R63, R65, R69; 60_exceptions.md R160).
-/

namespace Sys2Proof.Machine

open Sys2Proof.Laws

/-! ## What a decoded command says about its word -/

/-- A command's immediate, if it has one, is the one assembled from this operand (30_encoding.md R63). -/
def ImmediateFrom (data : Block) : Instr → Prop
  | .seed _ imm128 => imm128 = seedOperand data
  | .jump _ _ n => n = jumpOperand data
  | .adv _ _ => True
  | .mix _ => True
  | .par _ _ => True
  | .get _ => True

/-- A decoded command encodes back to the word it was decoded from, and its immediate is assembled from `DATA`. -/
theorem encodeWord_of_decode_ok {cw : Byte} {data : Block} {i : Instr} (h : decode cw data = .ok i) :
    encodeWord i = cw ∧ ImmediateFrom data i := by
  rcases decode_cases cw data with ⟨-, why, hdec⟩ | ⟨hz, hop, hss, hdec⟩ | ⟨hz, hop, hdec⟩ | ⟨hz, hop, hsd, hdec⟩ |
    ⟨hz, hop, hdec⟩ | ⟨hz, hop, hdec⟩ | ⟨hz, hop, hsd, hdec⟩
  · rw [hdec] at h
    cases h
  all_goals
    have hword := commandWord_fields cw hz
    rw [hdec] at h
    cases h
    simp_all [encodeWord, ImmediateFrom]

/-- The word of a command that writes a register names it in `CW[3:2]`. -/
theorem sdField_encodeWord {i : Instr} {r : SReg} (h : written i = some r) :
    sdField (encodeWord i) = registerIndex r := by
  cases i <;> cases h <;> exact sdField_commandWord _ _ _

/-- The word of a command that reads a register names it in `CW[1:0]`. -/
theorem ssField_encodeWord {i : Instr} {r : SReg} (h : readBy i = some r) :
    ssField (encodeWord i) = registerIndex r := by
  cases i <;> cases h <;> exact ssField_commandWord _ _ _

/-- The registers a decoded command writes and reads are those its word's two index fields select. -/
theorem registers_of_decode_ok {cw : Byte} {data : Block} {i : Instr} (h : decode cw data = .ok i) :
    (∀ r, written i = some r → r = regOf (sdOf cw)) ∧ (∀ r, readBy i = some r → r = regOf (ssOf cw)) := by
  obtain ⟨-, -, -, -, hsd, hss⟩ := fields_as_numbers cw
  obtain ⟨rfl, -⟩ := encodeWord_of_decode_ok h
  constructor
  · intro r hr
    rw [← hsd, sdField_encodeWord hr, registerOf_registerIndex]
  · intro r hr
    rw [← hss, ssField_encodeWord hr, registerOf_registerIndex]

theorem numberOf_regOf {n : Nat} (h : n < 4) : numberOf (regOf n) = n := by
  interval_cases n <;> rfl

/-! ## Illegal words (R69) and the exception (R160) -/

/-- Every command's word selects the command's own row and is legal. -/
theorem tableRow (i : Instr) : TableRow.Statement i := by
  cases i with
  | seed sd imm128 => exact TableRow.seed sd imm128
  | adv sd ss => exact TableRow.adv sd ss
  | mix ss => exact TableRow.mix ss
  | jump sd ss n => exact TableRow.jump sd ss n
  | par sd ss => exact TableRow.par sd ss
  | get ss => exact TableRow.get ss

theorem not_illegalWord_of_decode_ok {cw : Byte} {data : Block} {i : Instr} (h : decode cw data = .ok i) :
    ¬ IllegalWord cw := by
  obtain ⟨rfl, -⟩ := encodeWord_of_decode_ok h
  exact (tableRow i).2

theorem illegalWord_of_decode_error {cw : Byte} {data : Block} {why : Illegal} (h : decode cw data = .error why) :
    IllegalWord cw := by
  obtain ⟨hop, hz, hsd, hss, -, -⟩ := fields_as_numbers cw
  rcases decode_cases cw data with ⟨hcond, -⟩ | ⟨-, -, -, hdec⟩ | ⟨-, -, hdec⟩ | ⟨-, -, -, hdec⟩ | ⟨-, -, hdec⟩ |
    ⟨-, -, hdec⟩ | ⟨-, -, -, hdec⟩
  · rw [hop, hz, hsd, hss] at hcond
    unfold IllegalWord
    tauto
  all_goals
    rw [hdec] at h
    cases h

/-- The conditions of R69 are exactly those under which decoding rejects the word. -/
theorem illegalWord_iff (cw : Byte) (data : Block) : IllegalWord cw ↔ ∃ why, decode cw data = .error why := by
  constructor
  · intro hill
    cases h : decode cw data with
    | error why => exact ⟨why, rfl⟩
    | ok i => exact absurd hill (not_illegalWord_of_decode_ok h)
  · rintro ⟨why, h⟩
    exact illegalWord_of_decode_error h

/-- The exception answers `(1, 0, 0)`, writes no register and touches nothing else. -/
theorem raiseIllegalCommand_frame (s : State) :
    ∃ t, raiseIllegalCommand s = .next t ∧ RegsKept s t ∧ t.rsp = some ⟨true, 0, 0⟩ ∧ Untouched s t :=
  ⟨_, raiseIllegalCommand_eq s, fun r => reg_withRsp s _ r, rfl, ⟨rfl, rfl, rfl, rfl⟩⟩

/-- Settles O4: the conditions of R69 are those under which decoding rejects, and a rejected word's command is the
exception, which changes nothing but the response. -/
theorem illegalCommandChangesNothing : Obligations.IllegalCommandChangesNothing := by
  intro cw data
  refine ⟨illegalWord_iff cw data, fun hill s => ?_⟩
  obtain ⟨why, h⟩ := (illegalWord_iff cw data).mp hill
  rw [runCommand_error (c := ⟨cw, data⟩) h s]
  exact raiseIllegalCommand_frame s

/-! ## The rows of the opcode map (R65) -/

/-- The word of a decoded command selects the command's row. -/
theorem selects_row_of_decode_ok {cw : Byte} {data : Block} {i : Instr} (h : decode cw data = .ok i) :
    cw &&& TableRow.mask i = TableRow.pattern i := by
  obtain ⟨rfl, -⟩ := encodeWord_of_decode_ok h
  exact (tableRow i).1

/-- Mask `0xF0` leaves the opcode and the reserved bit. -/
theorem and_F0_eq_iff (cw : Byte) (op : BitVec 3) :
    cw &&& 0xF0 = commandWord op 0 0 ↔ zField cw = 0 ∧ opField cw = op := by
  revert cw op; decide

/-- Mask `0xFC` leaves the destination field too. -/
theorem and_FC_eq_iff (cw : Byte) (op : BitVec 3) :
    cw &&& 0xFC = commandWord op 0 0 ↔ zField cw = 0 ∧ opField cw = op ∧ sdField cw = 0 := by
  revert cw op; decide

/-- Mask `0xF3` leaves the source field too. -/
theorem and_F3_eq_iff (cw : Byte) (op : BitVec 3) :
    cw &&& 0xF3 = commandWord op 0 0 ↔ zField cw = 0 ∧ opField cw = op ∧ ssField cw = 0 := by
  revert cw op; decide

theorem selects_seed_iff (cw : Byte) (data : Block) :
    cw &&& 0xF3 = 0x20 ↔ ∃ sd imm, decode cw data = .ok (.seed sd imm) := by
  refine ⟨fun h => ?_, fun ⟨_, _, h⟩ => selects_row_of_decode_ok h⟩
  obtain ⟨hz, hop, hss⟩ := (and_F3_eq_iff cw 1).mp h
  simp [decode, hz, hop, hss]

theorem selects_adv_iff (cw : Byte) (data : Block) :
    cw &&& 0xF0 = 0x40 ↔ ∃ sd ss, decode cw data = .ok (.adv sd ss) := by
  refine ⟨fun h => ?_, fun ⟨_, _, h⟩ => selects_row_of_decode_ok h⟩
  obtain ⟨hz, hop⟩ := (and_F0_eq_iff cw 2).mp h
  simp [decode, hz, hop]

theorem selects_mix_iff (cw : Byte) (data : Block) :
    cw &&& 0xFC = 0x60 ↔ ∃ ss, decode cw data = .ok (.mix ss) := by
  refine ⟨fun h => ?_, fun ⟨_, h⟩ => selects_row_of_decode_ok h⟩
  obtain ⟨hz, hop, hsd⟩ := (and_FC_eq_iff cw 3).mp h
  simp [decode, hz, hop, hsd]

theorem selects_jump_iff (cw : Byte) (data : Block) :
    cw &&& 0xF0 = 0x80 ↔ ∃ sd ss n, decode cw data = .ok (.jump sd ss n) := by
  refine ⟨fun h => ?_, fun ⟨_, _, _, h⟩ => selects_row_of_decode_ok h⟩
  obtain ⟨hz, hop⟩ := (and_F0_eq_iff cw 4).mp h
  simp [decode, hz, hop]

theorem selects_par_iff (cw : Byte) (data : Block) :
    cw &&& 0xF0 = 0xA0 ↔ ∃ sd ss, decode cw data = .ok (.par sd ss) := by
  refine ⟨fun h => ?_, fun ⟨_, _, h⟩ => selects_row_of_decode_ok h⟩
  obtain ⟨hz, hop⟩ := (and_F0_eq_iff cw 5).mp h
  simp [decode, hz, hop]

theorem selects_get_iff (cw : Byte) (data : Block) :
    cw &&& 0xFC = 0xC0 ↔ ∃ ss, decode cw data = .ok (.get ss) := by
  refine ⟨fun h => ?_, fun ⟨_, h⟩ => selects_row_of_decode_ok h⟩
  obtain ⟨hz, hop, hsd⟩ := (and_FC_eq_iff cw 6).mp h
  simp [decode, hz, hop, hsd]

/-- Decoding accepts exactly the words that are not illegal. -/
theorem isSome_decode (cw : Byte) (data : Block) :
    (decode cw data).toOption.isSome = !decide (IllegalWord cw) := by
  cases h : decode cw data with
  | error why => simp [Except.toOption, illegalWord_of_decode_error h]
  | ok i => simp [Except.toOption, not_illegalWord_of_decode_ok h]

/-- The legal words of the opcode map, counted. -/
theorem count_legal :
    ((List.range 256).filter fun n => !decide (IllegalWord (BitVec.ofNat 8 n))).length = 60 := by rfl

/-- The illegal words, counted. -/
theorem count_illegal :
    ((List.range 256).filter fun n => decide (IllegalWord (BitVec.ofNat 8 n))).length = 196 := by rfl

/-- Settles O5: each row's mask and match leave exactly the fields that decide its command, and the counts are those
of the conditions of R69 on the 256 words. -/
theorem opcodeMapSelectsCommands : Obligations.OpcodeMapSelectsCommands := by
  refine ⟨fun cw data => ⟨selects_seed_iff cw data, selects_adv_iff cw data, selects_mix_iff cw data,
    selects_jump_iff cw data, selects_par_iff cw data, selects_get_iff cw data⟩, fun cw data i h => ?_, ?_,
    count_illegal⟩
  · obtain ⟨hwritten, hread⟩ := registers_of_decode_ok h
    constructor
    · intro r hr
      rw [hwritten r hr]
      exact numberOf_regOf (Nat.mod_lt _ (by decide))
    · intro r hr
      rw [hread r hr]
      exact numberOf_regOf (Nat.mod_lt _ (by decide))
  · simp only [isSome_decode]
    exact count_legal

/-! ## The part `DATA` takes (R63) -/

/-- Decoding depends on `DATA` only through the immediates of `SEED` and `JUMP`. -/
theorem decode_congr {cw : Byte} {d e : Block} (hseed : opOf cw = 1 → d = e)
    (hjump : opOf cw = 4 → jumpOperand d = jumpOperand e) : decode cw d = decode cw e := by
  obtain ⟨hop, -⟩ := fields_as_numbers cw
  unfold decode
  rw [hop]
  generalize opOf cw = op at hseed hjump
  match op with
  | 1 => simp only [hseed rfl]
  | 4 => simp only [hjump rfl]
  | 0 | 2 | 3 | 5 | 6 | _ + 7 => rfl

/-- A command's answer depends on its operand only through decoding. -/
theorem runCommand_congr {cw : Byte} {d e : Block} (h : decode cw d = decode cw e) (s : State) :
    runCommand ⟨cw, d⟩ s = runCommand ⟨cw, e⟩ s := by
  simp only [runCommand, decodeCommand, h]

/-- Operands equal modulo `2^64` give one jump distance. -/
theorem jumpOperand_congr {d e : Block} (h : d.toNat % 2 ^ 64 = e.toNat % 2 ^ 64) :
    jumpOperand d = jumpOperand e := by
  apply BitVec.eq_of_toNat_eq
  rw [jumpOperand, jumpOperand, toNat_lo, toNat_lo, h]

/-- Settles O6: a decoded command's immediate is assembled from `DATA` and its registers are those of the fields;
operands that assemble to the same immediates decode to the same command, so they get the same answer. -/
theorem operandsAssembledFromData : Obligations.OperandsAssembledFromData := by
  refine ⟨fun cw data sd imm h => (encodeWord_of_decode_ok h).2, fun cw data sd ss n h => ?_,
    fun cw d e s hop hmod => ?_, fun cw d e s hseed hjump => ?_, fun cw data i h => registers_of_decode_ok h⟩
  · have hn : n = jumpOperand data := (encodeWord_of_decode_ok h).2
    rw [hn, jumpOperand, toNat_lo]
  · exact runCommand_congr (decode_congr (fun hseed => by omega) fun _ => jumpOperand_congr hmod) s
  · exact runCommand_congr (decode_congr (fun hop => absurd hop hseed) fun hop => absurd hop hjump) s

end Sys2Proof.Machine
end

section
/-!
PROOFS. SEED and GET (spec 40_seed_get.md R90, R92): the words written as numbers, what the word of a command runs, and
what a nonzero unused field does.
-/

namespace Sys2Proof.Machine

/-! ## Command words as numbers (30_encoding.md R62) -/

theorem toNat_registerIndex (r : SReg) : (registerIndex r).toNat = numberOf r := by cases r <;> rfl

theorem numberOf_lt (r : SReg) : numberOf r < 4 := by cases r <;> decide

/-- Only `S0` has the number a zero field names. -/
theorem numberOf_ne_zero {r : SReg} (h : r ≠ .s0) : numberOf r ≠ 0 := by
  cases r with
  | s0 => exact absurd rfl h
  | s1 | s2 | s3 => decide

/-- The word of an opcode and two register numbers is the word of the fields. -/
theorem wordOf_numberOf (op : BitVec 3) (sd ss : SReg) :
    wordOf op.toNat (numberOf sd) (numberOf ss) = commandWord op (registerIndex sd) (registerIndex ss) := by
  rw [← toNat_registerIndex, ← toNat_registerIndex, wordOf, commandWord]

/-- The fields of a word written as numbers that fit are those numbers. -/
theorem fields_wordOf {op sd ss : Nat} (hop : op < 8) (hsd : sd < 4) (hss : ss < 4) :
    opOf (wordOf op sd ss) = op ∧ sdOf (wordOf op sd ss) = sd ∧ ssOf (wordOf op sd ss) = ss := by
  have hword : (wordOf op sd ss).toNat = op * 32 + sd * 4 + ss := by
    rw [wordOf, BitVec.toNat_ofNat]
    omega
  unfold opOf sdOf ssOf
  omega

/-! ## What a command word runs -/

/-- The word of a command decodes to it with any operand from which its immediate, if it has one, is assembled. -/
theorem decode_encodeWord {data : Block} {i : Instr} (h : ImmediateFrom data i) :
    decode (encodeWord i) data = .ok i := by
  cases i with
  | seed sd imm =>
    cases h
    simp [decode, encodeWord]
  | jump sd ss n =>
    cases h
    simp [decode, encodeWord]
  | adv sd ss | mix ss | par sd ss | get ss => simp [decode, encodeWord]

/-- The command of an instruction's word runs the instruction. -/
theorem runCommand_encodeWord {data : Block} {i : Instr} (h : ImmediateFrom data i) (s : State) :
    runCommand ⟨encodeWord i, data⟩ s = exec i s :=
  runCommand_ok (c := ⟨encodeWord i, data⟩) (decode_encodeWord h) s

/-- An illegal word's command changes no register and responds `(1, 0, 0)`, whatever its operand. -/
theorem runCommand_illegalWord {cw : Byte} (h : IllegalWord cw) (data : Block) (s : State) :
    ∃ t, runCommand ⟨cw, data⟩ s = .next t ∧ RegsKept s t ∧ t.rsp = some ⟨true, 0, 0⟩ ∧ Untouched s t :=
  (illegalCommandChangesNothing cw data).2 h s

/-! ## Words with a nonzero unused field (30_encoding.md R69) -/

/-- SEED has no source register. -/
theorem illegalWord_seed_of_source_ne (sd : SReg) {ss : SReg} (h : ss ≠ .s0) :
    IllegalWord (wordOf 1 (numberOf sd) (numberOf ss)) := by
  obtain ⟨hop, -, hss⟩ := fields_wordOf (op := 1) (by decide) (numberOf_lt sd) (numberOf_lt ss)
  have hsource : ssOf (wordOf 1 (numberOf sd) (numberOf ss)) ≠ 0 := hss.trans_ne (numberOf_ne_zero h)
  exact .inr (.inr (.inr (.inl ⟨hop, hsource⟩)))

/-- MIX and GET have no destination register. -/
theorem illegalWord_of_destination_ne {op : Nat} (hcmd : op = 3 ∨ op = 6) {sd : SReg} (h : sd ≠ .s0) (ss : SReg) :
    IllegalWord (wordOf op (numberOf sd) (numberOf ss)) := by
  obtain ⟨hop, hsd, -⟩ := fields_wordOf (op := op) (by omega) (numberOf_lt sd) (numberOf_lt ss)
  have hdest : sdOf (wordOf op (numberOf sd) (numberOf ss)) ≠ 0 := hsd.trans_ne (numberOf_ne_zero h)
  rcases hcmd with rfl | rfl
  · exact .inr (.inr (.inr (.inr (.inl ⟨hop, hdest⟩))))
  · exact .inr (.inr (.inr (.inr (.inr ⟨hop, hdest⟩))))

/-! ## SEED (R90) -/

/-- SEED writes its immediate to its register and touches nothing else. -/
theorem exec_seed_writes (sd : SReg) (imm : Block) (s : State) :
    ∃ t, exec (.seed sd imm) s = .next t ∧ t.reg sd = imm ∧ OthersKept sd s t ∧ t.rsp = some ⟨false, 0, 0⟩ ∧
      Untouched s t :=
  respond_setReg sd imm 0 0 s

theorem wordOf_seed (sd : SReg) (imm : Block) : wordOf 1 (numberOf sd) 0 = encodeWord (.seed sd imm) :=
  wordOf_numberOf 1 sd .s0

/-- Settles O7: the word with `ss = 0` is SEED's own, so its command runs SEED, which writes the immediate and nothing
else; with any other `ss` the word is illegal. -/
theorem seedLoadsRegister : Obligations.SeedLoadsRegister := by
  intro sd imm s
  refine ⟨?_, fun ss hss => runCommand_illegalWord (illegalWord_seed_of_source_ne sd hss) imm s⟩
  obtain ⟨t, hexec, heffect⟩ := exec_seed_writes sd imm s
  have hrun : runCommand ⟨wordOf 1 (numberOf sd) 0, imm⟩ s = exec (.seed sd imm) s := by
    rw [wordOf_seed sd imm]
    exact runCommand_encodeWord (i := .seed sd imm) rfl s
  exact ⟨t, hexec, hrun.trans hexec, heffect⟩

/-! ## GET (R92) -/

theorem wordOf_get (ss : SReg) : wordOf 6 0 (numberOf ss) = encodeWord (.get ss) := wordOf_numberOf 6 .s0 ss

/-- Settles O8: the word with `sd = 0` is GET's own, so its command runs GET with any `DATA`, which answers with the
register and writes nothing; with any other `sd` the word is illegal. -/
theorem getReturnsRegister : Obligations.GetReturnsRegister := by
  intro ss data s
  refine ⟨?_, fun sd hsd => runCommand_illegalWord (illegalWord_of_destination_ne (.inr rfl) hsd ss) data s⟩
  obtain ⟨t, hexec, heffect⟩ := exec_get_reads ss s
  have hrun : runCommand ⟨wordOf 6 0 (numberOf ss), data⟩ s = exec (.get ss) s := by
    rw [wordOf_get ss]
    exact runCommand_encodeWord (i := .get ss) trivial s
  exact ⟨t, hexec, hrun.trans hexec, heffect⟩

end Sys2Proof.Machine
end

section
/-!
PROOFS. The increment engine (spec 41_increment.md R101, R103): what ADV writes, the cycle of repeated addition of an
odd constant at any width, and the low lane as the addition step at width 64.
-/

namespace Sys2Proof.Machine

/-! ## ADV (R101) -/

theorem toNat_advance (cfg : Config) (v : Block) : (advance cfg v).toNat = (v.toNat + cfg.inc.toNat) % 2 ^ 128 :=
  BitVec.toNat_add v cfg.inc

/-- ADV writes one step of the engine to its destination and touches nothing else. -/
theorem exec_adv_writes (sd ss : SReg) (s : State) :
    ∃ t, exec (.adv sd ss) s = .next t ∧ t.reg sd = advance s.cfg (s.reg ss) ∧ OthersKept sd s t ∧
      t.rsp = some ⟨false, 0, 0⟩ ∧ Untouched s t :=
  respond_setReg sd (advance s.cfg (s.reg ss)) 0 0 s

theorem wordOf_adv (sd ss : SReg) : wordOf 2 (numberOf sd) (numberOf ss) = encodeWord (.adv sd ss) :=
  wordOf_numberOf 2 sd ss

/-- Settles O9: the word is ADV's own, so its command runs ADV with any `DATA`, which writes the source's sum with `INC`
and nothing else. -/
theorem advAddsIncrement : Obligations.AdvAddsIncrement := by
  intro sd ss data s
  obtain ⟨t, hexec, hvalue, heffect⟩ := exec_adv_writes sd ss s
  have hrun : runCommand ⟨wordOf 2 (numberOf sd) (numberOf ss), data⟩ s = exec (.adv sd ss) s := by
    rw [wordOf_adv sd ss]
    exact runCommand_encodeWord (i := .adv sd ss) trivial s
  have hsum : (t.reg sd).toNat = ((s.reg ss).toNat + s.cfg.inc.toNat) % 2 ^ 128 := by
    rw [hvalue, toNat_advance]
  exact ⟨t, hexec, hrun.trans hexec, hsum, heffect⟩

/-! ## Repeated addition at any width (R103, R104, R106) -/

/-- After `k` additions the value has grown by `k` times the constant, modulo `2^w`. -/
theorem toNat_addStep_iterate {w : Nat} (inc s : BitVec w) (k : Nat) :
    ((addStep inc)^[k] s).toNat = (s.toNat + k * inc.toNat) % 2 ^ w := by
  induction k with
  | zero => simp [Nat.mod_eq_of_lt s.isLt]
  | succ k ih =>
    have hnext : s.toNat + (k + 1) * inc.toNat = s.toNat + k * inc.toNat + inc.toNat := by ring
    rw [Function.iterate_succ_apply', addStep, BitVec.toNat_add, ih, Nat.mod_add_mod, hnext]

theorem addStep_iterate_two_pow {w : Nat} (inc s : BitVec w) : (addStep inc)^[2 ^ w] s = s := by
  apply BitVec.eq_of_toNat_eq
  rw [toNat_addStep_iterate, Nat.add_mul_mod_self_left, Nat.mod_eq_of_lt s.isLt]

/-- An odd constant is coprime to the modulus, which is why its multiples fill the whole cycle. -/
theorem coprime_toNat_of_odd {w : Nat} {inc : BitVec w} (hodd : inc.getLsbD 0 = true) :
    Nat.Coprime inc.toNat (2 ^ w) := by
  have hbit : inc.toNat.testBit 0 = true := hodd
  rw [Nat.testBit_zero, decide_eq_true_iff] at hbit
  exact (Nat.coprime_two_right.mpr (Nat.odd_iff.mpr hbit)).pow_right w

/-- With an odd constant, two numbers of additions lead to the same value exactly when they are equal modulo `2^w`. -/
theorem addStep_iterate_eq_iff {w : Nat} {inc : BitVec w} (hodd : inc.getLsbD 0 = true) (s : BitVec w) (j k : Nat) :
    (addStep inc)^[j] s = (addStep inc)^[k] s ↔ j ≡ k [MOD 2 ^ w] := by
  have hcoprime : Nat.gcd (2 ^ w) inc.toNat = 1 := (coprime_toNat_of_odd hodd).symm
  rw [← BitVec.toNat_inj, toNat_addStep_iterate, toNat_addStep_iterate]
  constructor
  · intro h
    exact (Nat.ModEq.add_left_cancel' s.toNat h).cancel_right_of_coprime hcoprime
  · intro h
    exact (h.mul_right inc.toNat).add_left s.toNat

/-- With an odd constant, fewer than `2^w` additions, but more than none, do not lead back to the start. -/
theorem addStep_iterate_ne {w : Nat} {inc : BitVec w} (hodd : inc.getLsbD 0 = true) (s : BitVec w) {k : Nat}
    (hpos : 0 < k) (hlt : k < 2 ^ w) : (addStep inc)^[k] s ≠ s := by
  intro hback
  have hmod : k ≡ 0 [MOD 2 ^ w] := (addStep_iterate_eq_iff hodd s k 0).mp hback
  exact hpos.ne' (hmod.eq_of_lt_of_lt hlt (by positivity))

/-- With an odd constant, every value is met at exactly one of the first `2^w` numbers of additions. -/
theorem existsUnique_addStep_iterate {w : Nat} {inc : BitVec w} (hodd : inc.getLsbD 0 = true) (s v : BitVec w) :
    ∃! k, k < 2 ^ w ∧ (addStep inc)^[k] s = v := by
  obtain ⟨k, hk, hmul⟩ :=
    Nat.exists_mul_mod_eq_of_coprime (v - s).toNat (coprime_toNat_of_odd hodd) (by positivity)
  have hmeet : (addStep inc)^[k] s = v := by
    apply BitVec.eq_of_toNat_eq
    calc ((addStep inc)^[k] s).toNat
        = (s.toNat + inc.toNat * k) % 2 ^ w := by rw [toNat_addStep_iterate, Nat.mul_comm]
      _ = (s.toNat + (v - s).toNat) % 2 ^ w := by rw [Nat.add_mod, hmul, ← Nat.add_mod]
      _ = v.toNat := by rw [← BitVec.toNat_add, add_sub_cancel]
  refine ⟨k, ⟨hk, hmeet⟩, fun j ⟨hj, hmeet'⟩ => ?_⟩
  have hmod : j ≡ k [MOD 2 ^ w] := (addStep_iterate_eq_iff hodd s j k).mp (hmeet'.trans hmeet.symm)
  exact hmod.eq_of_lt_of_lt hj hk

/-! ## The low lane (R103) -/

/-- The low lane runs through the addition step of width 64 with `INC.lo`, whatever the high lane is. -/
theorem lo_advance_iterate (cfg : Config) (k : Nat) (s : Block) :
    lo ((advance cfg)^[k] s) = (addStep (lo cfg.inc))^[k] (lo s) := by
  have hstep : Function.Semiconj lo (advance cfg) (addStep (lo cfg.inc)) := fun v => lo_add v cfg.inc
  exact hstep.iterate_right k s

/-- `INC.lo` is odd exactly when bit 0 of `INC` is set (00_scope.md R6 (a)). -/
theorem getLsbD_zero_lo_inc (cfg : Config) : (lo cfg.inc).getLsbD 0 = cfg.incOdd := by
  simp [lo, Config.incOdd]

/-- Settles O14: the low lane is repeated addition of an odd constant at width 64, whose cycle has all `2^64` values. -/
theorem lowLaneFullPeriod : Obligations.LowLaneFullPeriod := by
  intro cfg hinc s
  have hodd : (lo cfg.inc).getLsbD 0 = true := (getLsbD_zero_lo_inc cfg).trans hinc
  simp only [lo_advance_iterate]
  refine ⟨fun k => toNat_addStep_iterate _ _ k, addStep_iterate_two_pow _ _,
    fun k hpos hlt => addStep_iterate_ne hodd _ hpos hlt, fun l => ?_⟩
  obtain ⟨k, ⟨hlt, hmeet⟩, hunique⟩ := existsUnique_addStep_iterate hodd (lo s) l
  exact ⟨k, hlt, hmeet, fun j hj hmeet' => hunique j ⟨hj, hmeet'⟩⟩

end Sys2Proof.Machine
end

section
/-!
PROOFS. The substitution tables (spec 42_aes_round.md R113, R114) and the row shifts (R116).
-/

namespace Sys2Proof.Machine

/-! ## The tables (R113, R114) -/

/-- The affine map of R113 undone. -/
def affineInverse (b : Byte) : Byte := b.rotateLeft 1 ^^^ b.rotateLeft 3 ^^^ b.rotateLeft 6 ^^^ 0x05

@[simp] theorem affine_affineInverse (b : Byte) : affine (affineInverse b) = b := by revert b; decide

/-- The inverse in the field that the table holds: what the affine map takes to `SBOX[a]`. -/
def fieldInverse (a : Byte) : Byte := affineInverse (sbox a)

theorem fieldInverse_zero : fieldInverse 0 = 0 := by decide

/-- A nonzero byte times its inverse is 1 in the field of R112. -/
theorem fieldMul_fieldInverse : ∀ a : Byte, a ≠ 0 → fieldMul a (fieldInverse a) = 1 := by decide

theorem sbox_bijective : Function.Bijective sbox :=
  Function.bijective_iff_has_inverse.mpr ⟨invSbox, invSbox_sbox, sbox_invSbox⟩

theorem sbox_ne_self : ∀ a : Byte, sbox a ≠ a := by decide

/-- Settles O28: with the affine map undone on the table, every entry must be a field inverse, and all 256 are. -/
theorem substitutionTablesAlgebraic : Obligations.SubstitutionTablesAlgebraic :=
  ⟨⟨fieldInverse, fieldInverse_zero, fieldMul_fieldInverse, fun a => (affine_affineInverse (sbox a)).symm⟩,
    sbox_bijective, sbox_ne_self, invSbox_sbox⟩

/-! ## The row shifts (R116) -/

/-- Byte `i` of the block that takes its sixteen bytes from `v` at the indices of a list. -/
theorem byte_blockOfBytes_map_byte (v : Block) {is : List Nat} (hlength : is.length = 16) {i : Nat} (hi : i < 16) :
    byte (blockOfBytes (is.map (byte v))) i = byte v (is.getD i 0) := by
  have hi' : i < is.length := by omega
  rw [byte_blockOfBytes _ _ hi]
  simp [List.getD, hi']

theorem shiftRows_subBytes (x : AesState) : shiftRows (subBytes x) = subBytes (shiftRows x) := rfl

theorem invShiftRows_invSubBytes (x : AesState) : invShiftRows (invSubBytes x) = invSubBytes (invShiftRows x) := rfl

/-- Settles O29: a shifted state's bytes are those of the value at the printed indices. -/
theorem shiftRowsIndexLists : Obligations.ShiftRowsIndexLists :=
  ⟨fun v _ hi =>
      ⟨byte_blockOfBytes_map_byte v (is := [0, 5, 10, 15, 4, 9, 14, 3, 8, 13, 2, 7, 12, 1, 6, 11]) rfl hi,
        byte_blockOfBytes_map_byte v (is := [0, 13, 10, 7, 4, 1, 14, 11, 8, 5, 2, 15, 12, 9, 6, 3]) rfl hi⟩,
    fun x => ⟨shiftRows_subBytes x, invShiftRows_invSubBytes x⟩⟩

end Sys2Proof.Machine
end

section
/-!
PROOFS. The two column maps (spec 42_aes_round.md R117). Both are linear because doubling is, and both commute with
rotating a column, so that each fact about them is shown for row 0 only.
-/

namespace Sys2Proof.Machine

/-! ## Multiplication by the constants is additive (R112) -/

theorem mul3_xor (a b : Byte) : mul3 (a ^^^ b) = mul3 a ^^^ mul3 b := by
  simp only [mul3, xtime_xor]; ac_rfl

theorem mul4_xor (a b : Byte) : mul4 (a ^^^ b) = mul4 a ^^^ mul4 b := by
  simp only [mul4, xtime_xor]

theorem mul8_xor (a b : Byte) : mul8 (a ^^^ b) = mul8 a ^^^ mul8 b := by
  simp only [mul8, mul4_xor, xtime_xor]

theorem mul9_xor (a b : Byte) : mul9 (a ^^^ b) = mul9 a ^^^ mul9 b := by
  simp only [mul9, mul8_xor]; ac_rfl

theorem mul11_xor (a b : Byte) : mul11 (a ^^^ b) = mul11 a ^^^ mul11 b := by
  simp only [mul11, mul8_xor, mul2_xor]; ac_rfl

theorem mul13_xor (a b : Byte) : mul13 (a ^^^ b) = mul13 a ^^^ mul13 b := by
  simp only [mul13, mul8_xor, mul4_xor]; ac_rfl

theorem mul14_xor (a b : Byte) : mul14 (a ^^^ b) = mul14 a ^^^ mul14 b := by
  simp only [mul14, mul8_xor, mul4_xor, mul2_xor]; ac_rfl

/-! ## Rotation of a column -/

/-- A column moved up by one row. -/
def rotateColumn (c : Column) : Column := ⟨c.a1, c.a2, c.a3, c.a0⟩

theorem mixColumn_rotateColumn (c : Column) : mixColumn (rotateColumn c) = rotateColumn (mixColumn c) := by
  simp only [mixColumn, rotateColumn, Column.mk.injEq]
  refine ⟨?_, ?_, ?_, ?_⟩ <;> ac_rfl

theorem invMixColumn_rotateColumn (c : Column) : invMixColumn (rotateColumn c) = rotateColumn (invMixColumn c) := by
  simp only [invMixColumn, rotateColumn, Column.mk.injEq]
  refine ⟨?_, ?_, ?_, ?_⟩ <;> ac_rfl

/-- Columns are equal when row 0 is equal under every rotation. -/
theorem column_ext_rotate {c d : Column} (h : ∀ n, (rotateColumn^[n] c).a0 = (rotateColumn^[n] d).a0) : c = d := by
  obtain ⟨c0, c1, c2, c3⟩ := c
  obtain ⟨d0, d1, d2, d3⟩ := d
  obtain ⟨h0, h1, h2, h3⟩ : c0 = d0 ∧ c1 = d1 ∧ c2 = d2 ∧ c3 = d3 := ⟨h 0, h 1, h 2, h 3⟩
  rw [h0, h1, h2, h3]

/-- A map of columns that commutes with rotation and keeps row 0 keeps the column. -/
theorem eq_self_of_commute_rotateColumn {f : Column → Column} (hrot : Function.Commute f rotateColumn)
    (hrow : ∀ c, (f c).a0 = c.a0) (c : Column) : f c = c := by
  apply column_ext_rotate
  intro n
  rw [← (hrot.iterate_right n) c]
  exact hrow _

/-! ## Each map undoes the other -/

/-- Row 0 of the matrix of `InvMixColumns` against each column of the matrix of `MixColumns`. -/
theorem invMix_row_mul_mix_column (a : Byte) :
    mul14 (mul2 a) ^^^ mul11 a ^^^ mul13 a ^^^ mul9 (mul3 a) = a ∧
    mul14 (mul3 a) ^^^ mul11 (mul2 a) ^^^ mul13 a ^^^ mul9 a = 0 ∧
    mul14 a ^^^ mul11 (mul3 a) ^^^ mul13 (mul2 a) ^^^ mul9 a = 0 ∧
    mul14 a ^^^ mul11 a ^^^ mul13 (mul3 a) ^^^ mul9 (mul2 a) = 0 := by
  revert a; decide

theorem invMixColumn_mixColumn_a0 (c : Column) : (invMixColumn (mixColumn c)).a0 = c.a0 := by
  obtain ⟨a, b, c, d⟩ := c
  obtain ⟨ha, -, -, -⟩ := invMix_row_mul_mix_column a
  obtain ⟨-, hb, -, -⟩ := invMix_row_mul_mix_column b
  obtain ⟨-, -, hc, -⟩ := invMix_row_mul_mix_column c
  obtain ⟨-, -, -, hd⟩ := invMix_row_mul_mix_column d
  calc (invMixColumn (mixColumn ⟨a, b, c, d⟩)).a0
      = (mul14 (mul2 a) ^^^ mul11 a ^^^ mul13 a ^^^ mul9 (mul3 a)) ^^^
        (mul14 (mul3 b) ^^^ mul11 (mul2 b) ^^^ mul13 b ^^^ mul9 b) ^^^
        (mul14 c ^^^ mul11 (mul3 c) ^^^ mul13 (mul2 c) ^^^ mul9 c) ^^^
        (mul14 d ^^^ mul11 d ^^^ mul13 (mul3 d) ^^^ mul9 (mul2 d)) := by
        simp only [invMixColumn, mixColumn, mul14_xor, mul11_xor, mul13_xor, mul9_xor]
        ac_rfl
    _ = a := by rw [ha, hb, hc, hd]; simp

@[simp] theorem invMixColumn_mixColumn (c : Column) : invMixColumn (mixColumn c) = c :=
  have hinv : Function.Commute invMixColumn rotateColumn := invMixColumn_rotateColumn
  eq_self_of_commute_rotateColumn (hinv.comp_left mixColumn_rotateColumn) invMixColumn_mixColumn_a0 c

@[simp] theorem invMixColumns_mixColumns (x : AesState) : invMixColumns (mixColumns x) = x := by
  simp [invMixColumns, mixColumns, mapColumns]

/-- There are no more states than blocks. -/
theorem finite_aesState : Finite AesState :=
  Finite.of_injective aesBlock (Function.LeftInverse.injective aesState_aesBlock)

/-- `MixColumns` loses nothing, so it reaches all of the finitely many states. -/
theorem mixColumns_surjective : Function.Surjective mixColumns :=
  have := finite_aesState
  Finite.surjective_of_injective (Function.LeftInverse.injective invMixColumns_mixColumns)

@[simp] theorem mixColumns_invMixColumns (x : AesState) : mixColumns (invMixColumns x) = x := by
  obtain ⟨y, rfl⟩ := mixColumns_surjective x
  rw [invMixColumns_mixColumns]

/-! ## Both maps are linear over exclusive or -/

/-- Exclusive or of two columns, row by row. -/
def xorColumn (c d : Column) : Column := ⟨c.a0 ^^^ d.a0, c.a1 ^^^ d.a1, c.a2 ^^^ d.a2, c.a3 ^^^ d.a3⟩

/-- Exclusive or of two states, column by column. -/
def xorState (x y : AesState) : AesState :=
  ⟨xorColumn x.c0 y.c0, xorColumn x.c1 y.c1, xorColumn x.c2 y.c2, xorColumn x.c3 y.c3⟩

theorem aesState_xor (u v : Block) : aesState (u ^^^ v) = xorState (aesState u) (aesState v) := by
  simp only [aesState, byte_xor, xorState, xorColumn]

theorem aesBlock_xorState (x y : AesState) : aesBlock (xorState x y) = aesBlock x ^^^ aesBlock y := by
  rw [← aesBlock_aesState (aesBlock x ^^^ aesBlock y), aesState_xor, aesState_aesBlock, aesState_aesBlock]

theorem mixColumn_xorColumn (c d : Column) : mixColumn (xorColumn c d) = xorColumn (mixColumn c) (mixColumn d) := by
  simp only [mixColumn, xorColumn, mul2_xor, mul3_xor, Column.mk.injEq]
  refine ⟨?_, ?_, ?_, ?_⟩ <;> ac_rfl

theorem invMixColumn_xorColumn (c d : Column) :
    invMixColumn (xorColumn c d) = xorColumn (invMixColumn c) (invMixColumn d) := by
  simp only [invMixColumn, xorColumn, mul9_xor, mul11_xor, mul13_xor, mul14_xor, Column.mk.injEq]
  refine ⟨?_, ?_, ?_, ?_⟩ <;> ac_rfl

/-- A map of columns that is linear is linear on the blocks. -/
theorem aesBlock_mapColumns_xor {f : Column → Column} (hf : ∀ c d, f (xorColumn c d) = xorColumn (f c) (f d))
    (u v : Block) : aesBlock (mapColumns f (aesState (u ^^^ v))) =
      aesBlock (mapColumns f (aesState u)) ^^^ aesBlock (mapColumns f (aesState v)) := by
  rw [aesState_xor, ← aesBlock_xorState]
  simp only [mapColumns, xorState, hf]

/-- Settles O27: the formulas are the definitions, the two maps are inverse by row 0 and rotation, and linear because
multiplication by each constant is. -/
theorem mixColumnsLinearAndInvertible : Obligations.MixColumnsLinearAndInvertible :=
  ⟨fun _ _ _ _ => ⟨rfl, rfl⟩,
    fun x => ⟨invMixColumns_mixColumns x, mixColumns_invMixColumns x⟩,
    fun u v => ⟨aesBlock_mapColumns_xor mixColumn_xorColumn u v,
      aesBlock_mapColumns_xor invMixColumn_xorColumn u v⟩,
    by decide, by decide, by decide, by decide⟩

end Sys2Proof.Machine
end

section
/-!
PROOFS. The two rounds (spec 42_aes_round.md R118, R119): their bytes column by column, and their inverses.
-/

namespace Sys2Proof.Machine

/-! ## Columns of a state (R111) -/

/-- Column `c` of a state. -/
def stateColumn (x : AesState) : Nat → Column
  | 0 => x.c0
  | 1 => x.c1
  | 2 => x.c2
  | _ => x.c3

/-- The bytes of column `c` of a state's value, row 0 first. -/
theorem byte_aesBlock_column (x : AesState) {c : Nat} (hc : c < 4) :
    byte (aesBlock x) (4 * c) = (stateColumn x c).a0 ∧ byte (aesBlock x) (4 * c + 1) = (stateColumn x c).a1 ∧
    byte (aesBlock x) (4 * c + 2) = (stateColumn x c).a2 ∧ byte (aesBlock x) (4 * c + 3) = (stateColumn x c).a3 := by
  rw [byte_aesBlock x _ (by omega), byte_aesBlock x _ (by omega), byte_aesBlock x _ (by omega),
    byte_aesBlock x _ (by omega)]
  interval_cases c <;> exact ⟨rfl, rfl, rfl, rfl⟩

theorem stateColumn_mapColumns (f : Column → Column) (x : AesState) (c : Nat) :
    stateColumn (mapColumns f x) c = f (stateColumn x c) := by
  unfold stateColumn
  split <;> rfl

/-- The byte in row `r` and column `c` after the row shift: it comes from column `c + r` (R116). -/
def shiftedByte (v : Block) (c r : Nat) : Byte := byte v (4 * ((c + r) % 4) + r)

/-- The byte in row `r` and column `c` after the inverse row shift: it comes from column `c - r` (R116). -/
def invShiftedByte (v : Block) (c r : Nat) : Byte := byte v (4 * ((c + 4 - r) % 4) + r)

theorem stateColumn_shiftRows (v : Block) {c : Nat} (hc : c < 4) :
    stateColumn (shiftRows (aesState v)) c =
      ⟨shiftedByte v c 0, shiftedByte v c 1, shiftedByte v c 2, shiftedByte v c 3⟩ := by
  interval_cases c <;> rfl

theorem stateColumn_invShiftRows (v : Block) {c : Nat} (hc : c < 4) :
    stateColumn (invShiftRows (aesState v)) c =
      ⟨invShiftedByte v c 0, invShiftedByte v c 1, invShiftedByte v c 2, invShiftedByte v c 3⟩ := by
  interval_cases c <;> rfl

/-! ## Columns of a round -/

/-- Column `c` of the encrypt round before the key. -/
theorem stateColumn_encRound (v : Block) {c : Nat} (hc : c < 4) :
    stateColumn (mixColumns (subBytes (shiftRows (aesState v)))) c =
      mixColumn ⟨sbox (shiftedByte v c 0), sbox (shiftedByte v c 1), sbox (shiftedByte v c 2),
        sbox (shiftedByte v c 3)⟩ := by
  rw [mixColumns, stateColumn_mapColumns, subBytes, stateColumn_mapColumns, stateColumn_shiftRows v hc, mapColumn]

/-- Column `c` of the decrypt round before the key. -/
theorem stateColumn_decRound (v : Block) {c : Nat} (hc : c < 4) :
    stateColumn (invMixColumns (invSubBytes (invShiftRows (aesState v)))) c =
      invMixColumn ⟨invSbox (invShiftedByte v c 0), invSbox (invShiftedByte v c 1), invSbox (invShiftedByte v c 2),
        invSbox (invShiftedByte v c 3)⟩ := by
  rw [invMixColumns, stateColumn_mapColumns, invSubBytes, stateColumn_mapColumns, stateColumn_invShiftRows v hc,
    mapColumn]

/-- The bytes of column `c` of a state's value with a key: those of the column, each with the key's byte. -/
theorem byte_aesBlock_xor_column (x : AesState) (k : Block) {c : Nat} (hc : c < 4) {d : Column}
    (hd : stateColumn x c = d) :
    byte (aesBlock x ^^^ k) (4 * c) = d.a0 ^^^ byte k (4 * c) ∧
    byte (aesBlock x ^^^ k) (4 * c + 1) = d.a1 ^^^ byte k (4 * c + 1) ∧
    byte (aesBlock x ^^^ k) (4 * c + 2) = d.a2 ^^^ byte k (4 * c + 2) ∧
    byte (aesBlock x ^^^ k) (4 * c + 3) = d.a3 ^^^ byte k (4 * c + 3) := by
  subst hd
  obtain ⟨h0, h1, h2, h3⟩ := byte_aesBlock_column x hc
  simp only [byte_xor, h0, h1, h2, h3, and_self]

/-! ## The key enters last -/

theorem encRound_eq_xor_key (v k : Block) : encRound v k = encRound v 0 ^^^ k := by simp [encRound]

theorem decRound_eq_xor_key (v k : Block) : decRound v k = decRound v 0 ^^^ k := by simp [decRound]

/-! ## The inverses of the rounds (R118, R119) -/

/-- The inverse of the encrypt round: the key off first, then the inverse steps, the last one first (R119). -/
def encRoundInverse (k w : Block) : Block :=
  aesBlock (invShiftRows (invSubBytes (invMixColumns (aesState (w ^^^ k)))))

/-- The inverse of the decrypt round. -/
def decRoundInverse (k w : Block) : Block :=
  aesBlock (shiftRows (subBytes (mixColumns (aesState (w ^^^ k)))))

theorem encRoundInverse_encRound (k v : Block) : encRoundInverse k (encRound v k) = v := by
  simp [encRoundInverse, encRound]

theorem encRound_encRoundInverse (k w : Block) : encRound (encRoundInverse k w) k = w := by
  simp [encRoundInverse, encRound]

theorem decRoundInverse_decRound (k v : Block) : decRoundInverse k (decRound v k) = v := by
  simp [decRoundInverse, decRound]

theorem decRound_decRoundInverse (k w : Block) : decRound (decRoundInverse k w) k = w := by
  simp [decRoundInverse, decRound]

theorem encRound_bijective (k : Block) : Function.Bijective fun v => encRound v k :=
  Function.bijective_iff_has_inverse.mpr
    ⟨encRoundInverse k, encRoundInverse_encRound k, encRound_encRoundInverse k⟩

theorem decRound_bijective (k : Block) : Function.Bijective fun v => decRound v k :=
  Function.bijective_iff_has_inverse.mpr
    ⟨decRoundInverse k, decRoundInverse_decRound k, decRound_decRoundInverse k⟩

/-- With key 0 and only bit 7 set, the decrypt round does not lead back. -/
theorem decRound_encRound_ne : decRound (encRound 0x80 0) 0 ≠ 0x80 := by
  have henc : encRound 0x80 0 = 0x6363636363636363636363638ACDCD24 := by decide
  rw [henc]
  decide

/-- Settles O25: a column of the round is its shifted, substituted and mixed column with the key's bytes, and the round
is undone by `encRoundInverse`. -/
theorem encRoundBytes : Obligations.EncRoundBytes :=
  ⟨fun v k _ hc => byte_aesBlock_xor_column _ k hc (stateColumn_encRound v hc),
    encRound_bijective, encRound_eq_xor_key⟩

/-- Settles O26: the same with the inverse steps, the round undone by `decRoundInverse`; one value that the two rounds
with one key do not lead back to; and the inverse of the encrypt round as it is printed. -/
theorem decRoundBytes : Obligations.DecRoundBytes :=
  ⟨fun v k _ hc => byte_aesBlock_xor_column _ k hc (stateColumn_decRound v hc),
    decRound_bijective, decRound_eq_xor_key, ⟨0x80, 0, decRound_encRound_ne⟩,
    fun v k => encRoundInverse_encRound k v⟩

end Sys2Proof.Machine
end

section
/-!
PROOFS. MIX (spec 43_mix.md R130, R132, R133): what it answers, and the two values the answer depends on.
-/

namespace Sys2Proof.Machine

/-! ## The mixing function (R130, R132) -/

/-- Of the configuration, the mixing function takes the key only. -/
theorem mix_congr_key {c d : Config} (h : c.key = d.key) (v : Block) : mix c v = mix d v := by
  simp only [mix, blockA, blockB, penultimate, h]

/-! ## MIX (R133) -/

/-- MIX answers with the pair mixed from the register it reads, writes no register and touches nothing else. -/
theorem exec_mix_reads (ss : SReg) (s : State) :
    ∃ t, exec (.mix ss) s = .next t ∧ RegsKept s t ∧
      t.rsp = some ⟨false, (mix s.cfg (s.reg ss)).1, (mix s.cfg (s.reg ss)).2⟩ ∧ Untouched s t :=
  respond_reads (mix s.cfg (s.reg ss)).1 (mix s.cfg (s.reg ss)).2 s

theorem wordOf_mix (ss : SReg) : wordOf 3 0 (numberOf ss) = encodeWord (.mix ss) := wordOf_numberOf 3 .s0 ss

/-- Settles O10: the word with `sd = 0` is MIX's own, so its command runs MIX with any `DATA`, which answers with the
pair and writes nothing; with any other `sd` the word is illegal. -/
theorem mixReturnsBothBlocks : Obligations.MixReturnsBothBlocks := by
  intro ss data s
  refine ⟨?_, fun sd hsd => runCommand_illegalWord (illegalWord_of_destination_ne (.inl rfl) hsd ss) data s⟩
  obtain ⟨t, hexec, heffect⟩ := exec_mix_reads ss s
  have hrun : runCommand ⟨wordOf 3 0 (numberOf ss), data⟩ s = exec (.mix ss) s := by
    rw [wordOf_mix ss]
    exact runCommand_encodeWord (i := .mix ss) trivial s
  exact ⟨t, hexec, hrun.trans hexec, heffect⟩

/-- Settles O35: each response holds the pair mixed from the value read, and the pair is the same because the values
and the keys are. -/
theorem mixDependsOnStateAndKey : Obligations.MixDependsOnStateAndKey := by
  intro a b s t hvalue hkey
  obtain ⟨s', hexec, -, hrsp, -⟩ := exec_mix_reads a s
  obtain ⟨t', hexec', -, hrsp', -⟩ := exec_mix_reads b t
  have hpair : mix s.cfg (s.reg a) = mix t.cfg (t.reg b) := by rw [hvalue, mix_congr_key hkey]
  exact ⟨s', t', hexec, hexec', by rw [hrsp, hrsp', hpair]⟩

end Sys2Proof.Machine
end

section
/-!
PROOFS. Stream derivation (spec 44_stream_derivation.md R140, R141, R143, R146, R147): the lanes of a jump and of a
parallel state as numbers, what JUMP and PAR write, and a jump by 0.
-/

namespace Sys2Proof.Machine

/-! ## The function jump (R140, R143) -/

/-- The low lane of a jump, on the low lanes of the state and of `INC` alone. -/
@[simp] theorem lo_jump (cfg : Config) (v : Block) (n : Lane) : lo (jump cfg v n) = lo v + lo cfg.inc * n := lo_mk _ _

/-- The high lane of a jump, on the high lanes of the state and of `INC` alone. -/
@[simp] theorem hi_jump (cfg : Config) (v : Block) (n : Lane) : hi (jump cfg v n) = hi v + hi cfg.inc * n := hi_mk _ _

/-- A lane of a jump wraps once, after the sum: the product reduced first gives the same. -/
theorem toNat_add_mul (l i n : Lane) : (l + i * n).toNat = (l.toNat + i.toNat * n.toNat) % 2 ^ 64 := by
  rw [BitVec.toNat_add, BitVec.toNat_mul, Nat.add_mod_mod]

/-- With both products 0, both lanes stay. -/
@[simp] theorem jump_zero (cfg : Config) (v : Block) : jump cfg v 0 = v := block_ext (by simp) (by simp)

/-! ## JUMP (R141) -/

/-- JUMP writes the jump of its source to its destination and touches nothing else. -/
theorem exec_jump_writes (sd ss : SReg) (n : Lane) (s : State) :
    ∃ t, exec (.jump sd ss n) s = .next t ∧ t.reg sd = jump s.cfg (s.reg ss) n ∧ OthersKept sd s t ∧
      t.rsp = some ⟨false, 0, 0⟩ ∧ Untouched s t :=
  respond_setReg sd (jump s.cfg (s.reg ss) n) 0 0 s

theorem wordOf_jump (sd ss : SReg) (n : Lane) :
    wordOf 4 (numberOf sd) (numberOf ss) = encodeWord (.jump sd ss n) :=
  wordOf_numberOf 4 sd ss

/-- The word of JUMP runs it by the low lane of `DATA`, whatever the high lane is. -/
theorem runCommand_jump (sd ss : SReg) (n upper : Lane) (s : State) :
    runCommand ⟨wordOf 4 (numberOf sd) (numberOf ss), mk n upper⟩ s = exec (.jump sd ss n) s := by
  have himm : ImmediateFrom (mk n upper) (.jump sd ss n) := (lo_mk n upper).symm
  rw [wordOf_jump sd ss n]
  exact runCommand_encodeWord himm s

/-- Settles O11: the word is JUMP's own and its immediate the low lane of `DATA`, so its command runs JUMP, which writes
the source's jump, each of whose lanes is its own sum modulo `2^64`, and nothing else. -/
theorem jumpAddsLanewise : Obligations.JumpAddsLanewise := by
  intro sd ss n upper s
  obtain ⟨t, hexec, hvalue, heffect⟩ := exec_jump_writes sd ss n s
  have hrun := (runCommand_jump sd ss n upper s).trans hexec
  have hlo : (lo (t.reg sd)).toNat = ((lo (s.reg ss)).toNat + (lo s.cfg.inc).toNat * n.toNat) % 2 ^ 64 := by
    rw [hvalue, lo_jump, toNat_add_mul]
  have hhi : (hi (t.reg sd)).toNat = ((hi (s.reg ss)).toNat + (hi s.cfg.inc).toNat * n.toNat) % 2 ^ 64 := by
    rw [hvalue, hi_jump, toNat_add_mul]
  exact ⟨t, hexec, hrun, hlo, hhi, heffect⟩

/-- Settles O17: the function is the identity at 0; so JUMP writes its source's value, and where the source is the
destination, that register too keeps its value. -/
theorem jumpByZeroCopies : Obligations.JumpByZeroCopies := by
  have hcopy : ∀ (sd ss : SReg) (s : State), ∃ t, exec (.jump sd ss 0) s = .next t ∧ t.reg sd = s.reg ss ∧
      OthersKept sd s t := by
    intro sd ss s
    obtain ⟨t, hexec, hvalue, hothers, -⟩ := exec_jump_writes sd ss 0 s
    exact ⟨t, hexec, hvalue.trans (jump_zero s.cfg (s.reg ss)), hothers⟩
  refine ⟨jump_zero, hcopy, fun sd s => ?_⟩
  obtain ⟨t, hexec, hsame, hothers⟩ := hcopy sd sd s
  refine ⟨t, hexec, fun r => ?_⟩
  by_cases hr : r = sd
  · rw [hr, hsame]
  · exact hothers r hr

/-! ## The function parallel (R146) -/

@[simp] theorem lo_parallel (v : Block) : lo (parallel v) = lo v := lo_mk _ _

@[simp] theorem hi_parallel (v : Block) : hi (parallel v) = lcgA * hi v + lcgC := hi_mk _ _

/-- The linear-congruential step on numbers, with the multiplier and the increment in decimal as R146 prints them. -/
theorem toNat_hi_parallel (v : Block) :
    (hi (parallel v)).toNat = (6364136223846793005 * (hi v).toNat + 1442695040888963407) % 2 ^ 64 := by
  have hA : lcgA.toNat = 6364136223846793005 := by decide
  have hC : lcgC.toNat = 1442695040888963407 := by decide
  rw [hi_parallel, BitVec.toNat_add, BitVec.toNat_mul, Nat.mod_add_mod, hA, hC]

/-! ## PAR (R147) -/

/-- PAR writes its source's parallel state to its destination and touches nothing else. -/
theorem exec_par_writes (sd ss : SReg) (s : State) :
    ∃ t, exec (.par sd ss) s = .next t ∧ t.reg sd = parallel (s.reg ss) ∧ OthersKept sd s t ∧
      t.rsp = some ⟨false, 0, 0⟩ ∧ Untouched s t :=
  respond_setReg sd (parallel (s.reg ss)) 0 0 s

theorem wordOf_par (sd ss : SReg) : wordOf 5 (numberOf sd) (numberOf ss) = encodeWord (.par sd ss) :=
  wordOf_numberOf 5 sd ss

/-- Settles O12: the word is PAR's own, so its command runs PAR with any `DATA`, which writes the source's parallel state
and nothing else. -/
theorem parStepsHighLane : Obligations.ParStepsHighLane := by
  intro sd ss data s
  obtain ⟨t, hexec, hvalue, heffect⟩ := exec_par_writes sd ss s
  have hrun : runCommand ⟨wordOf 5 (numberOf sd) (numberOf ss), data⟩ s = exec (.par sd ss) s := by
    rw [wordOf_par sd ss]
    exact runCommand_encodeWord (i := .par sd ss) trivial s
  have hhi : (hi (t.reg sd)).toNat =
      (6364136223846793005 * (hi (s.reg ss)).toNat + 1442695040888963407) % 2 ^ 64 := by
    rw [hvalue, toNat_hi_parallel]
  have hlo : lo (t.reg sd) = lo (s.reg ss) := by rw [hvalue, lo_parallel]
  exact ⟨t, hexec, hrun.trans hexec, hhi, hlo, heffect⟩

end Sys2Proof.Machine
end

section
/-!
PROOFS. Completion and the one exception (spec 60_exceptions.md R161, R162): every command completes, and what it
answers does not depend on the response left from the command before it, in which alone an error is recorded.
-/

namespace Sys2Proof.Machine

/-! ## Completion (R162) -/

/-- Every command ends in `respond`: the four that write, after the write, with zeros; the two that only read, with what
they read. -/
theorem exec_eq_respond (i : Instr) (s : State) : ∃ d0 d1 u, exec i s = respond d0 d1 u := by
  cases i with
  | seed sd imm128 => exact ⟨0, 0, s.setReg sd imm128, rfl⟩
  | adv sd ss => exact ⟨0, 0, s.setReg sd (advance s.cfg (s.reg ss)), rfl⟩
  | mix ss => exact ⟨(mix s.cfg (s.reg ss)).1, (mix s.cfg (s.reg ss)).2, s, rfl⟩
  | jump sd ss n => exact ⟨0, 0, s.setReg sd (jump s.cfg (s.reg ss) n), rfl⟩
  | par sd ss => exact ⟨0, 0, s.setReg sd (parallel (s.reg ss)), rfl⟩
  | get ss => exact ⟨s.reg ss, 0, s, rfl⟩

theorem exec_completes (i : Instr) (s : State) : ∃ t r, exec i s = .next t ∧ t.rsp = some r ∧ r.err = false := by
  obtain ⟨d0, d1, u, hexec⟩ := exec_eq_respond i s
  exact ⟨u.withRsp (some ⟨false, d0, d1⟩), _, hexec.trans (respond_eq d0 d1 u), rsp_withRsp _ _, rfl⟩

/-- A word that meets no condition of R69 decodes, whatever `DATA` is. -/
theorem decodeCommand_of_not_illegalWord {c : Command} (h : ¬ IllegalWord c.cw) : ∃ i, decodeCommand c = .ok i := by
  cases hdec : decodeCommand c with
  | ok i => exact ⟨i, rfl⟩
  | error why => exact absurd (illegalWord_of_decode_error hdec) h

theorem runCommand_completes {c : Command} (h : ¬ IllegalWord c.cw) (s : State) :
    ∃ t r, runCommand c s = .next t ∧ t.rsp = some r ∧ r.err = false := by
  obtain ⟨i, hdec⟩ := decodeCommand_of_not_illegalWord h
  rw [runCommand_ok hdec]
  exact exec_completes i s

/-- Settles O36: every command ends in `respond`, and a legal word decodes to a command. -/
theorem legalCommandsNeverFail : Obligations.LegalCommandsNeverFail :=
  ⟨exec_completes, fun _ s h => runCommand_completes h s⟩

/-! ## Independence of the response before (R161) -/

/-- A state with the registers and the frame of another differs from it in the response at most. -/
theorem eq_withRsp_of_kept {s t : State} (hregs : RegsKept s t) (hframe : Untouched s t) : t = s.withRsp t.rsp := by
  obtain ⟨hcfg, hrst, hscript, hreceived⟩ := hframe
  exact State.ext_reg hcfg (fun i => (hregs i).trans (reg_withRsp s t.rsp i).symm) rfl hrst hscript hreceived

@[simp] theorem setReg_withRsp (s : State) (p : Option Response) (i : SReg) (v : Block) :
    (s.withRsp p).setReg i v = (s.setReg i v).withRsp p := by cases i <;> rfl

/-- A completing command replaces the response left from the command before. -/
@[simp] theorem respond_withRsp (d0 d1 : Block) (s : State) (p : Option Response) :
    respond d0 d1 (s.withRsp p) = respond d0 d1 s := rfl

/-- So does the exception. -/
@[simp] theorem raiseIllegalCommand_withRsp (s : State) (p : Option Response) :
    raiseIllegalCommand (s.withRsp p) = raiseIllegalCommand s := rfl

@[simp] theorem exec_withRsp (i : Instr) (s : State) (p : Option Response) : exec i (s.withRsp p) = exec i s := by
  cases i with
  | seed sd imm128 => simp [exec, execSeed]
  | adv sd ss => simp [exec, execAdv]
  | mix ss => simp [exec, execMix]
  | jump sd ss n => simp [exec, execJump]
  | par sd ss => simp [exec, execPar]
  | get ss => simp [exec, execGet]

/-- Legal or not, a command answers the same whatever response was left from the command before it. -/
@[simp] theorem runCommand_withRsp (c : Command) (s : State) (p : Option Response) :
    runCommand c (s.withRsp p) = runCommand c s := by
  cases hdec : decodeCommand c with
  | ok i => rw [runCommand_ok hdec, runCommand_ok hdec, exec_withRsp]
  | error why => rw [runCommand_error hdec, runCommand_error hdec, raiseIllegalCommand_withRsp]

/-- Settles O38: an illegal command changes the response alone, on which the next command's answer does not depend. -/
theorem errorIsNotSticky : Obligations.ErrorIsNotSticky := by
  intro bad good s hbad hgood
  obtain ⟨t, hrunBad, hregs, -, hframe⟩ := runCommand_illegalWord hbad bad.data s
  obtain ⟨u, r, hrunGood, hrsp, herr⟩ := runCommand_completes hgood s
  have hsame : runCommand good t = runCommand good s := by
    rw [eq_withRsp_of_kept hregs hframe, runCommand_withRsp]
  exact ⟨t, u, r, hrunBad, hregs, hframe, hsame.trans hrunGood, hrunGood, hrsp, herr⟩

end Sys2Proof.Machine
end

section
/-!
PROOFS. MIX again without ADV between (spec 70_reset_and_hazards.md R187; 43_mix.md R133).
-/

namespace Sys2Proof.Machine

/-- The state that MIX leaves differs in the response at most, so MIX in it answers that state again. -/
theorem exec_mix_again {ss : SReg} {s t : State} (h : exec (.mix ss) s = .next t) : exec (.mix ss) t = .next t := by
  obtain ⟨t', hexec, hregs, -, hframe⟩ := exec_mix_reads ss s
  obtain rfl : t' = t := by simpa [hexec] using h
  calc exec (.mix ss) t'
      = exec (.mix ss) (s.withRsp t'.rsp) := congrArg (exec (.mix ss)) (eq_withRsp_of_kept hregs hframe)
    _ = exec (.mix ss) s := exec_withRsp _ s _
    _ = .next t' := hexec

/-- Settles O33: the second MIX answers the same whole state as the first, whose response holds the mixed pair. -/
theorem mixRepeatsWithoutAdvance : Obligations.MixRepeatsWithoutAdvance := by
  intro ss s
  obtain ⟨t, hexec, hregs, hrsp, -⟩ := exec_mix_reads ss s
  exact ⟨t, t, _, hexec, exec_mix_again hexec, hregs, hrsp, hrsp, rfl⟩

end Sys2Proof.Machine
end

section
/-!
PROOFS. Decoding and encoding undo each other (spec 30_encoding.md sections 2 and 3), and the words written out bit by
bit.
-/

namespace Sys2Proof.Machine

/-- The operand an assembler writes is one the immediate is assembled from. -/
theorem immediateFrom_encodeData (i : Instr) : ImmediateFrom (encodeData i) i := by
  cases i with
  | seed sd imm => rfl
  | jump sd ss n => exact (jumpOperand_jumpData n).symm
  | adv sd ss | mix ss | par sd ss | get ss => trivial

@[simp] theorem decodeCommand_encode (i : Instr) : decodeCommand (encode i) = .ok i :=
  decode_encodeWord (immediateFrom_encodeData i)

/-- A record is the command word and the sixteen bytes of the operand (30_encoding.md R64). -/
@[simp] theorem length_recordOf (c : Command) : (recordOf c).length = 17 := by simp [recordOf]

/-- Settles O2: the word decodes to its command with the operand written for it; a record spells the command it was made
of and leaves the bytes after it. -/
theorem decodeEncodeRoundTrip : Obligations.DecodeEncodeRoundTrip := by
  intro i rest
  refine ⟨decodeCommand_encode i, length_recordOf (encode i), ?_⟩
  rw [encodeBytes, decodeBytes_recordOf, decodeCommand_encode]

/-- Settles O3: the word of a decoded command is `encodeWord` of the command, a function of it. -/
theorem encodeDecodeGivesBackWord : Obligations.EncodeDecodeGivesBackWord := by
  refine ⟨fun cw data i h => (encodeWord_of_decode_ok h).1, fun cw cw' data data' i h h' => ?_⟩
  obtain ⟨hword, -⟩ := encodeWord_of_decode_ok h
  obtain ⟨hword', -⟩ := encodeWord_of_decode_ok h'
  exact hword.symm.trans hword'

/-- Settles O1: each word is decoded by evaluation, `DATA` staying a variable. -/
theorem familyWordsDecode : Obligations.FamilyWordsDecode :=
  fun _ => ⟨rfl, rfl, rfl, rfl, rfl, rfl, rfl, rfl, rfl, rfl, rfl, rfl⟩

end Sys2Proof.Machine
end

section
/-!
PROOFS. What a command does, as a function of the configuration and the registers (spec 00_scope.md R12; 10_state.md
R20, R21), and that this function is the reference `coreFunction`.
-/

namespace Sys2Proof.Machine

/-! ## Registers (10_state.md R20) -/

/-- Settles O39: a register reads as what was last written to it, and it is made of its two lanes. -/
theorem registerFileWholeWrites : Obligations.RegisterFileWholeWrites := by
  intro s i v
  have hsame := reg_setReg_same s i v
  exact ⟨hsame, fun r hr => reg_setReg_ne s hr v, by rw [hsame, lo], by rw [hsame, hi], mk_lo_hi (s.reg i)⟩

/-! ## The effect of a command (10_state.md R21) -/

/-- The registers after a command. -/
def registersAfter (cfg : Config) (S : Regs) : Instr → Regs
  | .seed sd imm128 => S.write sd imm128
  | .adv sd ss => S.write sd (advance cfg (S ss))
  | .mix _ => S
  | .jump sd ss n => S.write sd (jump cfg (S ss) n)
  | .par sd ss => S.write sd (parallel (S ss))
  | .get _ => S

/-- The response of a command. -/
def responseTo (cfg : Config) (S : Regs) : Instr → Response
  | .seed _ _ => ⟨false, 0, 0⟩
  | .adv _ _ => ⟨false, 0, 0⟩
  | .mix ss => ⟨false, blockA cfg (S ss), blockB cfg (S ss)⟩
  | .jump _ _ _ => ⟨false, 0, 0⟩
  | .par _ _ => ⟨false, 0, 0⟩
  | .get ss => ⟨false, S ss, 0⟩

/-- A register file with one register replaced is the old one written there. -/
theorem reg_eq_write {s t : State} {sd : SReg} {v : Block} (hvalue : t.reg sd = v) (hothers : OthersKept sd s t) :
    t.reg = Regs.write s.reg sd v := by
  funext r
  by_cases hr : r = sd
  · rw [hr, hvalue, Regs.write_same]
  · rw [hothers r hr, Regs.write_ne _ hr]

/-- Every command answers a next state with the registers and the response of its effect, and nothing else changed. -/
theorem exec_effect (i : Instr) (s : State) :
    ∃ t, exec i s = .next t ∧ t.reg = registersAfter s.cfg s.reg i ∧
      t.rsp = some (responseTo s.cfg s.reg i) ∧ Untouched s t := by
  cases i with
  | seed sd imm =>
    obtain ⟨t, hexec, hvalue, hothers, hrsp, hframe⟩ := exec_seed_writes sd imm s
    exact ⟨t, hexec, reg_eq_write hvalue hothers, hrsp, hframe⟩
  | adv sd ss =>
    obtain ⟨t, hexec, hvalue, hothers, hrsp, hframe⟩ := exec_adv_writes sd ss s
    exact ⟨t, hexec, reg_eq_write hvalue hothers, hrsp, hframe⟩
  | mix ss =>
    obtain ⟨t, hexec, hregs, hrsp, hframe⟩ := exec_mix_reads ss s
    exact ⟨t, hexec, funext hregs, hrsp, hframe⟩
  | jump sd ss n =>
    obtain ⟨t, hexec, hvalue, hothers, hrsp, hframe⟩ := exec_jump_writes sd ss n s
    exact ⟨t, hexec, reg_eq_write hvalue hothers, hrsp, hframe⟩
  | par sd ss =>
    obtain ⟨t, hexec, hvalue, hothers, hrsp, hframe⟩ := exec_par_writes sd ss s
    exact ⟨t, hexec, reg_eq_write hvalue hothers, hrsp, hframe⟩
  | get ss =>
    obtain ⟨t, hexec, hregs, hrsp, hframe⟩ := exec_get_reads ss s
    exact ⟨t, hexec, funext hregs, hrsp, hframe⟩

/-- A state that a command answers is the one `exec_effect` describes. -/
theorem effect_of_exec_eq_next {i : Instr} {s t : State} (h : exec i s = .next t) :
    t.reg = registersAfter s.cfg s.reg i ∧ t.rsp = some (responseTo s.cfg s.reg i) ∧ Untouched s t := by
  obtain ⟨t', hexec, heffect⟩ := exec_effect i s
  obtain rfl : t' = t := Host.Outcome.next.inj (hexec.symm.trans h)
  exact heffect

/-- A register the table does not list as written keeps its value. -/
theorem registersAfter_of_not_written {i : Instr} {r : SReg} (h : written i ≠ some r) (cfg : Config) (S : Regs) :
    registersAfter cfg S i r = S r := by
  have hne : ∀ {sd : SReg}, some sd ≠ some r → r ≠ sd := fun hsd hr => hsd (congrArg some hr.symm)
  cases i with
  | mix ss | get ss => rfl
  | seed sd imm => exact Regs.write_ne S (hne h) _
  | adv sd ss => exact Regs.write_ne S (hne h) _
  | jump sd ss n => exact Regs.write_ne S (hne h) _
  | par sd ss => exact Regs.write_ne S (hne h) _

/-- Of the registers, the value written and the response depend on the one the table lists as read. -/
theorem effect_congr_readBy {i : Instr} {S S' : Regs} (h : ∀ r, readBy i = some r → S r = S' r) (cfg : Config) :
    responseTo cfg S i = responseTo cfg S' i ∧
      ∀ r, written i = some r → registersAfter cfg S i r = registersAfter cfg S' i r := by
  cases i with
  | seed sd imm =>
    refine ⟨rfl, fun r hr => ?_⟩
    cases hr
    simp only [registersAfter, Regs.write_same]
  | mix ss | get ss => exact ⟨by simp only [responseTo, h ss rfl], fun r hr => nomatch hr⟩
  | adv sd ss | jump sd ss n | par sd ss =>
    refine ⟨rfl, fun r hr => ?_⟩
    cases hr
    simp only [registersAfter, Regs.write_same, h ss rfl]

/-- Settles O40: both clauses are facts about the effect of a command. -/
theorem commandsReadAndWriteByTable : Obligations.CommandsReadAndWriteByTable := by
  constructor
  · intro i s t h r hr
    obtain ⟨hregs, -, -⟩ := effect_of_exec_eq_next h
    rw [hregs, registersAfter_of_not_written hr]
  · intro i s s' t t' h h' hcfg hread
    obtain ⟨hregs, hrsp, -⟩ := effect_of_exec_eq_next h
    obtain ⟨hregs', hrsp', -⟩ := effect_of_exec_eq_next h'
    obtain ⟨hresponse, hwritten⟩ := effect_congr_readBy hread s'.cfg
    rw [hregs, hrsp, hregs', hrsp', hcfg]
    exact ⟨congrArg some hresponse, hwritten⟩

/-! ## The reference function (00_scope.md R12) -/

/-- A block of two lane numbers is made of the lanes with those numbers. -/
theorem ofLaneNumbers_eq_mk {l h : Nat} {a b : Lane} (hl : a.toNat = l % 2 ^ 64) (hh : b.toNat = h % 2 ^ 64) :
    ofLaneNumbers l h = mk a b := by
  rw [ofLaneNumbers, mk, hl, hh]

theorem toNat_lo_eq_loNumber (v : Block) : (lo v).toNat = loNumber v := toNat_lo v

theorem toNat_hi_eq_hiNumber (v : Block) : (hi v).toNat = hiNumber v := toNat_hi v

theorem advance_eq_ofNat (cfg : Config) (v : Block) :
    BitVec.ofNat 128 (v.toNat + cfg.inc.toNat) = advance cfg v := by
  apply BitVec.eq_of_toNat_eq
  rw [toNat_advance, BitVec.toNat_ofNat]

theorem jump_eq_ofLaneNumbers (cfg : Config) (v data : Block) :
    ofLaneNumbers (loNumber v + loNumber cfg.inc * (data.toNat % 2 ^ 64))
      (hiNumber v + hiNumber cfg.inc * (data.toNat % 2 ^ 64)) = jump cfg v (jumpOperand data) := by
  apply ofLaneNumbers_eq_mk <;>
    rw [toNat_add_mul, jumpOperand, toNat_lo data]
  · rw [toNat_lo_eq_loNumber, toNat_lo_eq_loNumber]
  · rw [toNat_hi_eq_hiNumber, toNat_hi_eq_hiNumber]

theorem parallel_eq_ofLaneNumbers (v : Block) :
    ofLaneNumbers (loNumber v) (6364136223846793005 * hiNumber v + 1442695040888963407) = parallel v := by
  apply ofLaneNumbers_eq_mk
  · rw [toNat_lo_eq_loNumber, loNumber, Nat.mod_mod]
  · rw [← hi_parallel, toNat_hi_parallel, toNat_hi_eq_hiNumber]

theorem coreFunction_of_illegalWord {c : Command} (h : IllegalWord c.cw) (cfg : Config) (S : Regs) :
    coreFunction cfg S c = (S, ⟨true, 0, 0⟩) := if_pos h

/-- On a legal command the reference gives the effect of the command it decodes to. -/
theorem coreFunction_of_decode_ok {c : Command} {i : Instr} (h : decodeCommand c = .ok i) (cfg : Config) (S : Regs) :
    coreFunction cfg S c = (registersAfter cfg S i, responseTo cfg S i) := by
  have hlegal : ¬ IllegalWord c.cw := not_illegalWord_of_decode_ok h
  obtain ⟨hop, -, -, -, hsd, hss⟩ := fields_as_numbers c.cw
  have hdecode : decode c.cw c.data = .ok i := h
  rw [coreFunction, if_neg hlegal, ← hop, ← hsd, ← hss]
  rcases decode_cases c.cw c.data with ⟨-, why, hdec⟩ | ⟨-, hfield, -, hdec⟩ | ⟨-, hfield, hdec⟩ |
    ⟨-, hfield, -, hdec⟩ | ⟨-, hfield, hdec⟩ | ⟨-, hfield, hdec⟩ | ⟨-, hfield, -, hdec⟩
  · rw [hdec] at hdecode
    cases hdecode
  all_goals
    rw [hdec] at hdecode
    cases hdecode
    rw [hfield]
  · rfl
  · exact congrArg (fun v => (Regs.write S _ v, _)) (advance_eq_ofNat cfg _)
  · rfl
  · exact congrArg (fun v => (Regs.write S _ v, _)) (jump_eq_ofLaneNumbers cfg _ _)
  · exact congrArg (fun v => (Regs.write S _ v, _)) (parallel_eq_ofLaneNumbers _)
  · rfl

/-- Legal or not, a command answers a next state with the registers and the response of the reference, and nothing else
changed. -/
theorem runCommand_effect (c : Command) (s : State) :
    ∃ t, runCommand c s = .next t ∧ t.reg = (coreFunction s.cfg s.reg c).1 ∧
      t.rsp = some (coreFunction s.cfg s.reg c).2 ∧ Untouched s t := by
  cases h : decodeCommand c with
  | ok i =>
    rw [runCommand_ok h, coreFunction_of_decode_ok h]
    exact exec_effect i s
  | error why =>
    rw [runCommand_error h, coreFunction_of_illegalWord (illegalWord_of_decode_error h)]
    obtain ⟨t, hraise, hregs, hrsp, hframe⟩ := raiseIllegalCommand_frame s
    exact ⟨t, hraise, funext hregs, hrsp, hframe⟩

/-- Settles O52: the reference is the effect of a legal command, and of an illegal one. -/
theorem commandRefinesCoreFunction : Obligations.CommandRefinesCoreFunction := by
  intro c s
  obtain ⟨t, hrun, hregs, heffect⟩ := runCommand_effect c s
  exact ⟨t, hrun, congrFun hregs, heffect⟩

end Sys2Proof.Machine
end

section
/-!
PROOFS. One step (spec 00_scope.md R7, R12; 30_encoding.md R72; 60_exceptions.md section 1; 70_reset_and_hazards.md
R180, R181): what it answers for each move of the host, what every step keeps, and the ports.
-/

namespace Sys2Proof.Machine

/-! ## The step for each move of the host -/

theorem step_idle {s : State} (h : s.script = []) : step s = .next s := by simp [step, nextMove, h]

theorem step_rst {s : State} {level : Bool} {rest : List HostMove} (h : s.script = .rst level :: rest) :
    step s = .next (driveRst level (s.withScript rest)) := by simp [step, nextMove, h]

theorem step_take {s : State} {rest : List HostMove} (h : s.script = .take :: rest) :
    step s = .next (takeResponse (s.withScript rest)) := by simp [step, nextMove, h]

theorem step_wait {s : State} {c : Command} {rest : List HostMove} (h : s.script = .command c :: rest)
    (hready : cmdReady s = false) : step s = .next s := by simp [step, nextMove, h, hready]

theorem step_accept {s : State} {c : Command} {rest : List HostMove} (h : s.script = .command c :: rest)
    (hready : cmdReady s = true) : step s = runCommand c (s.withScript rest) := by
  simp [step, nextMove, h, hready]

/-- What a step can lead to. -/
inductive StepEffect (s : State) : State → Prop
  /-- the host is idle, or its command waits -/
  | stay : StepEffect s s
  /-- the host drives `rst` -/
  | drive (level : Bool) (rest : List HostMove) (hscript : s.script = .rst level :: rest) :
    StepEffect s (driveRst level (s.withScript rest))
  /-- the host takes the response -/
  | take (rest : List HostMove) (hscript : s.script = .take :: rest) : StepEffect s (takeResponse (s.withScript rest))
  /-- a command is accepted and answered as the reference has it -/
  | accept (c : Command) (rest : List HostMove) {t : State} (hscript : s.script = .command c :: rest)
    (hready : cmdReady s = true) (hregs : t.reg = (coreFunction s.cfg s.reg c).1)
    (hrsp : t.rsp = some (coreFunction s.cfg s.reg c).2) (hframe : Untouched (s.withScript rest) t) : StepEffect s t

theorem step_answers (s : State) : ∃ t, step s = .next t ∧ StepEffect s t := by
  rcases step_cases s with ⟨-, hstep⟩ | ⟨level, rest, hscript, hstep⟩ | ⟨rest, hscript, hstep⟩ |
    ⟨-, -, -, -, hstep⟩ | ⟨c, rest, hscript, hready, hstep⟩
  · exact ⟨s, hstep, .stay⟩
  · exact ⟨_, hstep, .drive level rest hscript⟩
  · exact ⟨_, hstep, .take rest hscript⟩
  · exact ⟨s, hstep, .stay⟩
  · obtain ⟨t, hrun, hregs, hrsp, hframe⟩ := runCommand_effect c (s.withScript rest)
    exact ⟨t, hstep.trans hrun, .accept c rest hscript hready hregs hrsp hframe⟩

theorem stepEffect_of_step_eq_next {s t : State} (h : step s = .next t) : StepEffect s t := by
  obtain ⟨t', hstep, heffect⟩ := step_answers s
  obtain rfl : t' = t := Host.Outcome.next.inj (hstep.symm.trans h)
  exact heffect

/-- Settles O37: every move is answered with a next state; without a move, or with a command that waits, with the same
state. -/
theorem stepAlwaysAnswersNext : Obligations.StepAlwaysAnswersNext := by
  refine ⟨fun s => ?_, fun s => step_idle, fun s c rest => step_wait⟩
  obtain ⟨t, hstep, -⟩ := step_answers s
  exact ⟨t, hstep⟩

/-! ## What writes a register (10_state.md R21) -/

/-- A register that the reference changes is the one that a legal command lists as written. -/
theorem written_of_coreFunction_ne {c : Command} {cfg : Config} {S : Regs} {r : SReg}
    (h : (coreFunction cfg S c).1 r ≠ S r) : ∃ i, decodeCommand c = .ok i ∧ written i = some r := by
  cases hdec : decodeCommand c with
  | error why =>
    rw [coreFunction_of_illegalWord (illegalWord_of_decode_error hdec)] at h
    exact absurd rfl h
  | ok i =>
    rw [coreFunction_of_decode_ok hdec] at h
    exact ⟨i, rfl, not_not.mp fun hr => h (registersAfter_of_not_written hr cfg S)⟩

/-- Settles O41: of the moves of the host only `rst` high, which clears all registers, and an accepted command change a
register. -/
theorem registersChangeOnlyByCommandOrReset : Obligations.RegistersChangeOnlyByCommandOrReset := by
  intro s t r hstep hchange
  cases stepEffect_of_step_eq_next hstep with
  | stay => exact absurd rfl hchange
  | drive level rest hscript =>
    cases level with
    | false => simp at hchange
    | true => exact .inl ⟨rest, hscript, reg_driveRst_high _ r⟩
  | take rest hscript => simp at hchange
  | accept c rest hscript hready hregs =>
    rw [hregs] at hchange
    obtain ⟨i, hdec, hwritten⟩ := written_of_coreFunction_ne hchange
    exact .inr ⟨c, rest, i, hscript, hready, hdec, hwritten⟩

/-! ## The parameters (00_scope.md R7) -/

/-- Settles O42: no move touches the configuration. -/
theorem parametersAreImmutable : Obligations.ParametersAreImmutable := by
  intro s t hstep
  cases stepEffect_of_step_eq_next hstep with
  | stay => rfl
  | drive level rest => rw [cfg_driveRst, cfg_withScript]
  | take rest => rw [cfg_takeResponse, cfg_withScript]
  | accept c rest hscript hready hregs hrsp hframe => exact hframe.cfg

/-! ## The invariant -/

/-- Settles O50: the default configuration is legal; there are no responses, and `rst` is low. -/
theorem resetMeetsInvariant : Obligations.ResetMeetsInvariant where
  legal := show defaultConfig.legal = true by decide
  presented := fun _ h => nomatch h
  taken := fun _ h => nomatch h
  inReset := fun h => nomatch h

/-- The reference responds as 30_encoding.md R70 has it: with `ERR = 1` both data fields are zero. -/
theorem wellFormed_coreFunction (cfg : Config) (S : Regs) (c : Command) :
    (coreFunction cfg S c).2.wellFormed = true := by
  cases hdec : decodeCommand c with
  | error why =>
    rw [coreFunction_of_illegalWord (illegalWord_of_decode_error hdec)]
    rfl
  | ok i =>
    rw [coreFunction_of_decode_ok hdec]
    cases i <;> rfl

theorem inv_driveRst {s : State} (h : s.Inv) (level : Bool) : (driveRst level s).Inv where
  legal := by rw [cfg_driveRst, h.legal]
  taken := by rw [received_driveRst]; exact h.taken
  presented := by
    cases level with
    | false => exact h.presented
    | true => intro r hr; simp at hr
  inReset := by
    cases level with
    | false => intro hrst; simp at hrst
    | true => exact fun _ => ⟨reg_driveRst_high s, rsp_driveRst_high s⟩

theorem inv_takeResponse {s : State} (h : s.Inv) : (takeResponse s).Inv where
  legal := by rw [cfg_takeResponse, h.legal]
  presented := by simp
  taken := by
    cases hrsp : s.rsp with
    | none => rw [takeResponse_none hrsp]; exact h.taken
    | some r =>
      rw [takeResponse_some hrsp]
      intro q hq
      rcases List.mem_append.mp hq with hold | hnew
      · exact h.taken q hold
      · rw [List.mem_singleton.mp hnew]
        exact h.presented r hrsp
  inReset := by
    intro hrst
    rw [rst_takeResponse] at hrst
    exact ⟨fun i => (reg_takeResponse s i).trans ((h.inReset hrst).1 i), rsp_takeResponse s⟩

/-- With `rst` low, a state that differs in the registers and in a response of R70 meets the invariant too. -/
theorem inv_of_untouched {s t : State} (h : s.Inv) (hrst : s.rst = false) {r : Response} (hrsp : t.rsp = some r)
    (hr : r.wellFormed = true) (hframe : Untouched s t) : t.Inv where
  legal := by rw [hframe.cfg, h.legal]
  presented := by
    intro q hq
    rw [hrsp] at hq
    cases hq
    exact hr
  taken := by rw [hframe.received]; exact h.taken
  inReset := by rw [hframe.rst, hrst]; intro hhigh; cases hhigh

theorem inv_withScript {s : State} (h : s.Inv) (rest : List HostMove) : (s.withScript rest).Inv where
  legal := h.legal
  presented := h.presented
  taken := h.taken
  inReset := fun hrst => ⟨fun i => (reg_withScript s rest i).trans ((h.inReset hrst).1 i), (h.inReset hrst).2⟩

/-- Settles O51: each of the moves keeps the invariant; a command is accepted with `rst` low only, and its response is
one of R70. -/
theorem stepKeepsInvariant : Obligations.StepKeepsInvariant := by
  intro s t hinv hstep
  cases stepEffect_of_step_eq_next hstep with
  | stay => exact hinv
  | drive level rest => exact inv_driveRst (inv_withScript hinv rest) level
  | take rest => exact inv_takeResponse (inv_withScript hinv rest)
  | accept c rest hscript hready hregs hrsp hframe =>
    obtain ⟨hlow, -⟩ := (cmdReady_iff s).mp hready
    exact inv_of_untouched (inv_withScript hinv rest) hlow hrsp (wellFormed_coreFunction _ _ c) hframe

/-! ## Reset (70_reset_and_hazards.md R180, R181) -/

/-- Settles O44: the step drives `rst` high, which is the effect of reset. -/
theorem resetClearsRegistersAndResponse : Obligations.ResetClearsRegistersAndResponse := by
  intro s rest hscript
  refine ⟨_, step_rst hscript, reg_driveRst_high _, rsp_driveRst_high _, ?_⟩
  simp

/-- A step with `rst` high that does not drive it low changes no register and presents no response. -/
theorem step_held {s t : State} (hinv : s.Inv) (hrst : s.rst = true) (hstep : step s = .next t)
    (hhold : ∀ rest, s.script ≠ .rst false :: rest) :
    t.rst = true ∧ RegsKept s t ∧ t.rsp = none ∧ t.received = s.received := by
  obtain ⟨hzero, hrsp⟩ := hinv.inReset hrst
  cases stepEffect_of_step_eq_next hstep with
  | stay => exact ⟨hrst, fun r => rfl, hrsp, rfl⟩
  | drive level rest hscript =>
    cases level with
    | false => exact absurd hscript (hhold rest)
    | true =>
      have hregs : RegsKept s (driveRst true (s.withScript rest)) := fun r => by rw [reg_driveRst_high, hzero r]
      exact ⟨rst_driveRst _ _, hregs, rsp_driveRst_high _, received_driveRst _ _⟩
  | take rest =>
    rw [takeResponse_none (s := s.withScript rest) hrsp]
    exact ⟨hrst, reg_withScript s rest, hrsp, rfl⟩
  | accept c rest hscript hready =>
    obtain ⟨hlow, -⟩ := (cmdReady_iff s).mp hready
    exact absurd hrst (by rw [hlow]; decide)

/-- Settles O45: the invariant says that no response is presented in reset, and what a step does there is `step_held`;
after the release nothing keeps the core from being ready. -/
theorem resetHeldBlocksThePorts : Obligations.ResetHeldBlocksThePorts := by
  intro s hinv hrst
  obtain ⟨-, hrsp⟩ := hinv.inReset hrst
  refine ⟨by simp [cmdReady, hrst], by simp [rspValid, hrsp], fun t => step_held hinv hrst, fun rest hscript => ?_⟩
  have hnone : (driveRst false (s.withScript rest)).rsp = none := hrsp
  have hready : cmdReady (driveRst false (s.withScript rest)) = true :=
    (cmdReady_iff _).mpr ⟨rst_driveRst _ _, hnone⟩
  refine ⟨_, step_rst hscript, hready, by simp [rspValid, hnone], fun r => ?_⟩
  rw [reg_driveRst_low, reg_withScript]

/-! ## The ports (30_encoding.md R72) -/

/-- While a response is presented the core is not ready. -/
theorem cmdReady_of_rsp {s : State} {r : Response} (h : s.rsp = some r) : cmdReady s = false := by
  simp [cmdReady, h]

/-- Settles O46: a command leaves a response, a presented response keeps the core from being ready, and taking it leaves
none. -/
theorem oneCommandInFlight : Obligations.OneCommandInFlight := by
  refine ⟨fun c s => ?_, fun c s rest hscript hvalid => ?_, fun s rest hscript hrst => ?_⟩
  · obtain ⟨t, hrun, -, hrsp, -⟩ := runCommand_effect c s
    exact ⟨t, hrun, (rspValid_iff t).mpr ⟨_, hrsp⟩, cmdReady_of_rsp hrsp⟩
  · obtain ⟨r, hrsp⟩ := (rspValid_iff s).mp hvalid
    exact step_wait hscript (cmdReady_of_rsp hrsp)
  · refine ⟨_, step_take hscript, (cmdReady_iff _).mpr ⟨?_, rsp_takeResponse _⟩⟩
    rw [rst_takeResponse, rst_withScript, hrst]

/-- Settles O47: the step takes the response, which moves it to the host's record. -/
theorem takeDeliversResponse : Obligations.TakeDeliversResponse := by
  intro s r rest hscript hrsp
  have hstep := step_take hscript
  rw [takeResponse_some (s := s.withScript rest) hrsp] at hstep
  refine ⟨_, hstep, rfl, rfl, fun i => ?_, rfl, rfl, rfl⟩
  rw [reg_withRsp, reg_withTaken, reg_withScript]

/-- Settles O48: an accepted command runs, and what runs is its instruction or the exception. -/
theorem stepRunsDecodedCommand : Obligations.StepRunsDecodedCommand := by
  intro s c rest hscript hready
  rw [step_accept hscript hready]
  exact ⟨fun i h => runCommand_ok h _, fun why h => runCommand_error h _⟩

/-! ## Placing a command (log 10) -/

/-- What a table word decodes to is what its command decodes to. -/
theorem decodeCommand_of_decodeTableWord {nbits w : Nat} {i : Instr} (h : decodeTableWord nbits w = some i) :
    decodeCommand (commandOfTableWord nbits w) = .ok i := by
  have hrecord := decodeBytes_recordOf (commandOfTableWord nbits w) []
  rw [List.append_nil] at hrecord
  unfold decodeTableWord at h
  rw [hrecord] at h
  cases hdec : decodeCommand (commandOfTableWord nbits w) with
  | ok j => simpa [hdec] using h
  | error why => simp [hdec] at h

/-- Settles O49: the command placed is accepted, decodes to the instruction, and is gone from the moves. -/
theorem fetchedWordRuns : Obligations.FetchedWordRuns := by
  intro s nbits w i h
  rw [State.withFetchWord, step_accept (script_presentCommand _ s) (cmdReady_presentCommand _ s),
    runCommand_ok (decodeCommand_of_decodeTableWord h)]
  rfl

end Sys2Proof.Machine
end

section
/-!
PROOFS. The increment engine in lanes and over the whole state (spec 41_increment.md R100, R104, R105).
-/

namespace Sys2Proof.Machine

/-! ## One addition in lanes (R100) -/

/-- A block's number is its high lane's times `2^64` and its low lane's. -/
theorem toNat_eq_lanes (v : Block) : v.toNat = (hi v).toNat * 2 ^ 64 + (lo v).toNat := by
  rw [← toNat_mk, mk_lo_hi]

/-- The high lane of a sum takes the carry out of the low lane. -/
theorem toNat_hi_add (u v : Block) :
    (hi (u + v)).toNat = ((hi u).toNat + (hi v).toNat +
      (if 2 ^ 64 ≤ (lo u).toNat + (lo v).toNat then 1 else 0)) % 2 ^ 64 := by
  have hu := (lo u).isLt
  have hv := (lo v).isLt
  rw [toNat_hi, BitVec.toNat_add, toNat_eq_lanes u, toNat_eq_lanes v]
  split <;> omega

theorem toNat_carryLane_laneCarry (a b : Lane) :
    (carryLane (laneCarry a b)).toNat = if 2 ^ 64 ≤ a.toNat + b.toNat then 1 else 0 := by
  simp only [carryLane, laneCarry, decide_eq_true_eq]
  split <;> rfl

theorem advance_eq_advanceLanes (cfg : Config) (s : Block) : advance cfg s = advanceLanes cfg s := by
  apply block_ext
  · exact (lo_add s cfg.inc).trans (lo_mk _ _).symm
  · apply BitVec.eq_of_toNat_eq
    rw [advanceLanes, hi_mk, BitVec.toNat_add, BitVec.toNat_add, Nat.mod_add_mod, toNat_carryLane_laneCarry]
    exact toNat_hi_add s cfg.inc

/-- Settles O13: both forms have the low lanes' sum in the low lane, and in the high lane the high lanes' sum with the
carry. -/
theorem advanceIsLaneAddWithCarry : Obligations.AdvanceIsLaneAddWithCarry := by
  intro cfg s
  refine ⟨toNat_advance cfg s, advance_eq_advanceLanes cfg s, ⟨?_, toNat_hi_add s cfg.inc⟩,
    sub_add_cancel s cfg.inc, add_sub_cancel_right s cfg.inc⟩
  rw [advance, addStep, lo_add, BitVec.toNat_add]

/-! ## The whole state (R104) -/

theorem toNat_advance_iterate (cfg : Config) (k : Nat) (s : Block) :
    ((advance cfg)^[k] s).toNat = (s.toNat + k * cfg.inc.toNat) % 2 ^ 128 :=
  toNat_addStep_iterate cfg.inc s k

/-- Settles O15: the engine is repeated addition of an odd constant at width 128, whose cycle has all `2^128` values. -/
theorem wholeStateFullPeriod : Obligations.WholeStateFullPeriod := by
  intro cfg hodd s
  refine ⟨fun k => toNat_advance_iterate cfg k s, addStep_iterate_two_pow cfg.inc s,
    fun k hpos hlt => addStep_iterate_ne hodd s hpos hlt, fun v => ?_⟩
  obtain ⟨k, hmeet, -⟩ := existsUnique_addStep_iterate hodd s v
  exact ⟨k, hmeet⟩

/-! ## The high lane (R105) -/

/-- After `k` steps the high lane has grown by `k` times its lane of `INC` and by the wraps of the low lane. -/
theorem toNat_hi_advance_iterate (cfg : Config) (k : Nat) (s : Block) :
    (hi ((advance cfg)^[k] s)).toNat =
      ((hi s).toNat + k * (hi cfg.inc).toNat + ((lo s).toNat + k * (lo cfg.inc).toNat) / 2 ^ 64) % 2 ^ 64 := by
  have hlanes : s.toNat + k * cfg.inc.toNat =
      ((hi s).toNat + k * (hi cfg.inc).toNat) * 2 ^ 64 + ((lo s).toNat + k * (lo cfg.inc).toNat) := by
    rw [toNat_eq_lanes s, toNat_eq_lanes cfg.inc]
    ring
  rw [toNat_hi, toNat_advance_iterate, hlanes]
  omega

/-- Over a multiple of the low lane's cycle, the high lane grows by `INC.lo` for each time round. -/
theorem hi_advance_iterate_two_pow_mul (cfg : Config) (m : Nat) (s : Block) :
    (hi ((advance cfg)^[2 ^ 64 * m] s)).toNat = ((hi s).toNat + m * (lo cfg.inc).toNat) % 2 ^ 64 := by
  have hlo := (lo s).isLt
  rw [toNat_hi_advance_iterate, Nat.mul_assoc, Nat.mul_assoc]
  omega

/-- Settles O16: over one cycle of the low lane, `2^64` times `INC.hi` vanishes and the low lane wraps `INC.lo`
times. -/
theorem highLaneEvolution : Obligations.HighLaneEvolution := by
  intro cfg s
  refine ⟨fun k => toNat_hi_advance_iterate cfg k s, ?_⟩
  apply BitVec.eq_of_toNat_eq
  rw [BitVec.toNat_add, ← Nat.one_mul (lo cfg.inc).toNat, ← hi_advance_iterate_two_pow_mul, Nat.mul_one]

end Sys2Proof.Machine
end

section
/-!
PROOFS. The function jump (spec 44_stream_derivation.md R142, R144, R145): distances add, act modulo `2^64`, and compare
with steps of the engine by the wraps of the low lane.
-/

namespace Sys2Proof.Machine

/-! ## Distances add (R144) -/

theorem jump_jump (cfg : Config) (v : Block) (a b : Lane) : jump cfg (jump cfg v a) b = jump cfg v (a + b) := by
  apply block_ext
  · rw [lo_jump, lo_jump, lo_jump]; ring
  · rw [hi_jump, hi_jump, hi_jump]; ring

/-- A jump by the two's complement of a distance is a jump back. -/
theorem jump_jump_neg (cfg : Config) (v : Block) (n : Lane) : jump cfg (jump cfg v n) (-n) = v := by
  rw [jump_jump, add_neg_cancel, jump_zero]

theorem ofNat_two_pow_sub (n : Lane) : BitVec.ofNat 64 ((2 ^ 64 - n.toNat) % 2 ^ 64) = -n := by
  apply BitVec.eq_of_toNat_eq
  rw [BitVec.toNat_ofNat, BitVec.toNat_neg, Nat.mod_mod]

theorem jump_bijective (cfg : Config) (n : Lane) : Function.Bijective fun v => jump cfg v n := by
  refine Function.bijective_iff_has_inverse.mpr
    ⟨fun v => jump cfg v (-n), fun v => jump_jump_neg cfg v n, fun v => ?_⟩
  have hback := jump_jump_neg cfg v (-n)
  rwa [neg_neg] at hback

/-- JUMP after JUMP writes one jump by the sum of the two distances. -/
theorem exec_jump_jump (sd mid ss : SReg) (a b : Lane) (s : State) :
    ∃ t u, exec (.jump mid ss a) s = .next t ∧ exec (.jump sd mid b) t = .next u ∧
      u.reg sd = jump s.cfg (s.reg ss) (a + b) := by
  obtain ⟨t, hexec, hvalue, -, -, hframe⟩ := exec_jump_writes mid ss a s
  obtain ⟨u, hexec', hvalue', -⟩ := exec_jump_writes sd mid b t
  exact ⟨t, u, hexec, hexec', by rw [hvalue', hvalue, hframe.cfg, jump_jump]⟩

/-- JUMP by a distance and then by its two's complement writes the first source's value. -/
theorem exec_jump_back (sd mid ss : SReg) (n : Lane) (s : State) :
    ∃ t u, exec (.jump mid ss n) s = .next t ∧ exec (.jump sd mid (-n)) t = .next u ∧ u.reg sd = s.reg ss := by
  obtain ⟨t, u, hexec, hexec', hvalue⟩ := exec_jump_jump sd mid ss n (-n) s
  exact ⟨t, u, hexec, hexec', by rw [hvalue, add_neg_cancel, jump_zero]⟩

/-- Settles O18: distances add, and a distance and its two's complement add to 0. -/
theorem jumpsComposeAndInvert : Obligations.JumpsComposeAndInvert := by
  refine ⟨fun sd mid ss a b s => ?_, fun sd ss n s => ?_, jump_bijective⟩
  · obtain ⟨t, u, hexec, hexec', hvalue⟩ := exec_jump_jump sd mid ss a b s
    obtain ⟨v, hexec'', hvalue', -⟩ := exec_jump_writes sd ss (a + b) s
    exact ⟨t, u, v, hexec, hexec', hexec'', hvalue.trans hvalue'.symm⟩
  · rw [ofNat_two_pow_sub]
    exact exec_jump_back sd sd ss n s

/-! ## Distances act modulo `2^64` (R142) -/

/-- A lane moved by the low 64 bits of a distance is the lane moved by the whole distance. -/
theorem toNat_add_mul_ofNat (l i : Lane) (n : Nat) :
    (l + i * BitVec.ofNat 64 n).toNat = (l.toNat + i.toNat * n) % 2 ^ 64 := by
  rw [toNat_add_mul, BitVec.toNat_ofNat, Nat.add_mod, Nat.mul_mod_mod, ← Nat.add_mod]

/-- Settles O20: each lane is moved by the whole distance modulo `2^64`. -/
theorem jumpDistanceModulo : Obligations.JumpDistanceModulo := by
  intro cfg s n
  rw [lo_jump, hi_jump, toNat_add_mul_ofNat, toNat_add_mul_ofNat]
  exact ⟨rfl, rfl⟩

/-! ## A jump against steps of the engine (R145) -/

theorem lo_advance_iterate_eq_lo_jump (cfg : Config) (n : Nat) (s : Block) :
    lo ((advance cfg)^[n] s) = lo (jump cfg s (BitVec.ofNat 64 n)) := by
  apply BitVec.eq_of_toNat_eq
  rw [lo_advance_iterate, toNat_addStep_iterate, lo_jump, toNat_add_mul_ofNat, Nat.mul_comm]

/-- The engine's high lane is ahead of the jump's by the wraps of the low lane. -/
theorem toNat_hi_advance_iterate_eq_jump (cfg : Config) (n : Nat) (s : Block) :
    (hi ((advance cfg)^[n] s)).toNat =
      ((hi (jump cfg s (BitVec.ofNat 64 n))).toNat + carries cfg (lo s) n) % 2 ^ 64 := by
  rw [toNat_hi_advance_iterate, hi_jump, toNat_add_mul_ofNat, Nat.mod_add_mod, carries, Nat.mul_comm n]

/-- Fewer than `2^64` steps wrap the low lane fewer than `2^64` times. -/
theorem carries_lt (cfg : Config) (l : Lane) {n : Nat} (hn : n < 2 ^ 64) : carries cfg l n < 2 ^ 64 := by
  have hl := l.isLt
  have hprod : n * (lo cfg.inc).toNat ≤ (2 ^ 64 - 1) * (2 ^ 64 - 1) :=
    Nat.mul_le_mul (by omega) (Nat.le_sub_one_of_lt (lo cfg.inc).isLt)
  rw [carries]
  omega

theorem carries_eq_zero_iff (cfg : Config) (l : Lane) (n : Nat) :
    carries cfg l n = 0 ↔ l.toNat + n * (lo cfg.inc).toNat < 2 ^ 64 := by
  rw [carries, Nat.div_eq_zero_iff_lt (by decide)]

/-- Fewer than `2^64` steps are a jump exactly when the low lane does not wrap. -/
theorem jump_eq_advance_iterate_iff (cfg : Config) (s : Block) {n : Nat} (hn : n < 2 ^ 64) :
    jump cfg s (BitVec.ofNat 64 n) = (advance cfg)^[n] s ↔ (lo s).toNat + n * (lo cfg.inc).toNat < 2 ^ 64 := by
  have hlo := lo_advance_iterate_eq_lo_jump cfg n s
  have hhi := toNat_hi_advance_iterate_eq_jump cfg n s
  have hcarries := carries_lt cfg (lo s) hn
  have hbound := (hi (jump cfg s (BitVec.ofNat 64 n))).isLt
  rw [← carries_eq_zero_iff]
  constructor
  · intro heq
    rw [← heq] at hhi
    omega
  · intro hzero
    refine block_ext hlo.symm (BitVec.eq_of_toNat_eq ?_)
    rw [hhi, hzero, Nat.add_zero, Nat.mod_eq_of_lt hbound]

/-- Settles O19: the low lanes agree, and the high lanes are apart by the wraps, which are fewer than `2^64`. -/
theorem jumpAgainstRepeatedAdvance : Obligations.JumpAgainstRepeatedAdvance :=
  fun cfg s n hn => ⟨rfl, lo_advance_iterate_eq_lo_jump cfg n s, toNat_hi_advance_iterate_eq_jump cfg n s,
    jump_eq_advance_iterate_iff cfg s hn⟩

end Sys2Proof.Machine
end

section
/-!
PROOFS. Repeated PAR (spec 44_stream_derivation.md R148). A linear-congruential step `x ↦ a * x + c` repeated `k`
times adds the first difference `(a * x + c) - x` as often as the geometric sum `1 + a + ... + a^(k-1)` says; with `a`
one more than a multiple of 4 that sum has as many factors 2 as `k`, which makes the cycle as long as the width allows.
-/

namespace Sys2Proof.Machine

open Finset (range)

/-! ## The linear-congruential step at any width -/

/-- The linear-congruential step. -/
def lcgStep {w : Nat} (a c x : BitVec w) : BitVec w := a * x + c

theorem addStep_iterate_eq {w : Nat} (inc x : BitVec w) (n : Nat) : (addStep inc)^[n] x = x + (n : BitVec w) * inc := by
  induction n with
  | zero => simp
  | succ n ih => rw [Function.iterate_succ_apply', ih, addStep]; push_cast; ring

/-- Repeating the step adds the first difference as often as the geometric sum says. -/
theorem lcgStep_iterate {w : Nat} (a c x : BitVec w) (k : Nat) :
    (lcgStep a c)^[k] x = (addStep (lcgStep a c x - x))^[∑ i ∈ range k, a.toNat ^ i] x := by
  induction k with
  | zero => rfl
  | succ k ih =>
    have ha : ((a.toNat : Nat) : BitVec w) = a := by simp
    rw [Function.iterate_succ_apply', ih, addStep_iterate_eq, addStep_iterate_eq, geom_sum_succ, lcgStep, lcgStep]
    push_cast
    rw [ha]
    ring

/-- A geometric sum whose ratio is one more than a multiple of 4 has as many factors 2 as it has terms. -/
theorem two_pow_dvd_geom_sum_iff {a : Nat} (hmod : a % 4 = 1) (hne : a ≠ 1) (w k : Nat) :
    2 ^ w ∣ ∑ i ∈ range k, a ^ i ↔ 2 ^ w ∣ k := by
  have hfour : (4 : Int) ∣ (a : Int) - 1 := by omega
  have hodd : ¬ (2 : Int) ∣ (a : Int) := by omega
  have hfinite : FiniteMultiplicity (2 : Int) ((a : Int) - 1) :=
    Int.finiteMultiplicity_iff.mpr ⟨by decide, by omega⟩
  have hlift := Int.two_pow_sub_pow' (y := 1) k hfour hodd
  rw [one_pow, ← mul_geom_sum, emultiplicity_mul Int.prime_two] at hlift
  have hsum : emultiplicity (2 : Int) (∑ i ∈ range k, (a : Int) ^ i) = emultiplicity (2 : Int) k :=
    ENat.add_right_injective_of_ne_top (finiteMultiplicity_iff_emultiplicity_ne_top.mp hfinite) hlift
  have hcast : (2 : Int) ^ w ∣ ∑ i ∈ range k, (a : Int) ^ i ↔ (2 : Int) ^ w ∣ (k : Int) := by
    rw [pow_dvd_iff_le_emultiplicity, pow_dvd_iff_le_emultiplicity, hsum]
  exact_mod_cast hcast

section FullCycle

variable {w : Nat} {a c x : BitVec w}

/-- With an odd first difference, the step leads back after a multiple of `2^w` repetitions and no other number. -/
theorem lcgStep_iterate_eq_self_iff (hmod : a.toNat % 4 = 1) (hne : a.toNat ≠ 1)
    (hodd : (lcgStep a c x - x).getLsbD 0 = true) (k : Nat) : (lcgStep a c)^[k] x = x ↔ 2 ^ w ∣ k := by
  rw [lcgStep_iterate, ← two_pow_dvd_geom_sum_iff hmod hne, ← Nat.modEq_zero_iff_dvd]
  exact addStep_iterate_eq_iff hodd x _ 0

/-- A value whose returns are at the multiples of `2^w` leads to every value within `2^w` steps. -/
theorem exists_iterate_eq {f : BitVec w → BitVec w} (hreturn : ∀ k, f^[k] x = x ↔ 2 ^ w ∣ k) (v : BitVec w) :
    ∃ k, k < 2 ^ w ∧ f^[k] x = v := by
  have hperiod : Function.minimalPeriod f x = 2 ^ w := Nat.dvd_right_iff_eq.mp fun k => by
    rw [← Function.isPeriodicPt_iff_minimalPeriod_dvd, ← hreturn k]; rfl
  have hinj : Function.Injective fun k : Fin (2 ^ w) => (f^[k] x).toFin := fun j k hjk =>
    Fin.ext (Function.iterate_injOn_Iio_minimalPeriod (hperiod.symm ▸ j.isLt) (hperiod.symm ▸ k.isLt)
      (BitVec.toFin_injective hjk))
  obtain ⟨k, hk⟩ := Finite.surjective_of_injective hinj v.toFin
  exact ⟨k, k.isLt, BitVec.toFin_injective hk⟩

end FullCycle

/-! ## PAR (R148) -/

/-- The high lane runs through the step of R146, whatever the low lane is. -/
theorem hi_parallel_iterate (k : Nat) (v : Block) : hi (parallel^[k] v) = (lcgStep lcgA lcgC)^[k] (hi v) := by
  have hstep : Function.Semiconj hi parallel (lcgStep lcgA lcgC) := hi_parallel
  exact hstep.iterate_right k v

theorem lo_parallel_iterate (k : Nat) (v : Block) : lo (parallel^[k] v) = lo v := by
  induction k with
  | zero => rfl
  | succ k ih => rw [Function.iterate_succ_apply', lo_parallel, ih]

/-- The multiplier is odd and so is the increment, so the step changes the parity. -/
theorem toNat_hi_parallel_mod_two (v : Block) : (hi (parallel v)).toNat % 2 = ((hi v).toNat + 1) % 2 := by
  rw [toNat_hi_parallel]
  omega

theorem hi_parallel_ne (v : Block) : hi (parallel v) ≠ hi v := by
  intro h
  have hparity := toNat_hi_parallel_mod_two v
  rw [h] at hparity
  omega

theorem hi_parallel_sub_odd (v : Block) : (lcgStep lcgA lcgC (hi v) - hi v).getLsbD 0 = true := by
  have hparity := toNat_hi_parallel_mod_two v
  have hlt := (hi v).isLt
  rw [lcgStep, ← hi_parallel, BitVec.getLsbD, Nat.testBit_zero, decide_eq_true_iff, BitVec.toNat_sub]
  omega

/-- Repeated PAR gives back the high lane after a multiple of `2^64` applications and no other number. -/
theorem hi_parallel_iterate_eq_iff (v : Block) (k : Nat) : hi (parallel^[k] v) = hi v ↔ 2 ^ 64 ∣ k := by
  rw [hi_parallel_iterate]
  exact lcgStep_iterate_eq_self_iff (by decide) (by decide) (hi_parallel_sub_odd v) k

theorem parallel_iterate_two_pow (v : Block) : parallel^[2 ^ 64] v = v :=
  block_ext (lo_parallel_iterate _ v) ((hi_parallel_iterate_eq_iff v _).mpr dvd_rfl)

/-- Settles O22: the high lanes are a linear-congruential cycle of full length, and the low lane stays. -/
theorem repeatedParCyclesHighLane : Obligations.RepeatedParCyclesHighLane := by
  intro s
  refine ⟨parallel_iterate_two_pow s, fun k hpos hlt hback => ?_, fun h => ?_⟩
  · exact Nat.not_dvd_of_pos_of_lt hpos hlt ((hi_parallel_iterate_eq_iff s k).mp hback)
  · simp only [hi_parallel_iterate]
    exact exists_iterate_eq (fun k => hi_parallel_iterate k s ▸ hi_parallel_iterate_eq_iff s k) h

/-- Every block comes back under repeated PAR, so it is the parallel state of one block. -/
theorem parallel_bijective : Function.Bijective parallel := by
  have hperiodic : Function.periodicPts parallel = Set.univ :=
    Set.eq_univ_of_forall fun v => Function.mk_mem_periodicPts (n := 2 ^ 64) (by decide) (parallel_iterate_two_pow v)
  have hbij := Function.bijOn_periodicPts parallel
  rw [hperiodic] at hbij
  exact Set.bijOn_univ.mp hbij

/-- Settles O21: the step changes the parity of the high lane, so the lane; and the function is a bijection because
repeating it leads back. -/
theorem parChangesHighLane : Obligations.ParChangesHighLane := by
  refine ⟨fun sd ss s => ?_, parallel_bijective⟩
  obtain ⟨t, hexec, hvalue, -⟩ := exec_par_writes sd ss s
  exact ⟨t, hexec, by rw [hvalue]; exact hi_parallel_ne (s.reg ss)⟩

end Sys2Proof.Machine
end

section
/-!
PROOFS. The reach of one round and its worked examples (spec 42_aes_round.md section 5), and the mixing function on
different states (43_mix.md R134; 44_stream_derivation.md R149).
-/

namespace Sys2Proof.Machine

/-! ## The reach of one round (R120) -/

/-- The row shift brings byte 0 to column 0, so the other columns do not depend on it. -/
theorem shiftedByte_congr {u v : Block} (h : ∀ i, 0 < i → i < 16 → byte u i = byte v i) {c r : Nat} (hpos : 0 < c)
    (hc : c < 4) (hr : r < 4) : shiftedByte u c r = shiftedByte v c r :=
  h _ (by omega) (by omega)

/-- Settles O30: the columns after column 0 are mixed from bytes that agree. -/
theorem oneByteReachesOneColumn : Obligations.OneByteReachesOneColumn := by
  intro u v k h i hfrom hto
  have hc : i / 4 < 4 := by omega
  have hcolumn : stateColumn (mixColumns (subBytes (shiftRows (aesState u)))) (i / 4) =
      stateColumn (mixColumns (subBytes (shiftRows (aesState v)))) (i / 4) := by
    have hbyte : ∀ r < 4, shiftedByte u (i / 4) r = shiftedByte v (i / 4) r :=
      fun r hr => shiftedByte_congr h (by omega) hc hr
    rw [stateColumn_encRound u hc, stateColumn_encRound v hc, hbyte 0 (by decide), hbyte 1 (by decide),
      hbyte 2 (by decide), hbyte 3 (by decide)]
  obtain ⟨hu0, hu1, hu2, hu3⟩ := byte_aesBlock_xor_column _ k hc hcolumn
  obtain ⟨hv0, hv1, hv2, hv3⟩ := byte_aesBlock_xor_column (mixColumns (subBytes (shiftRows (aesState v)))) k hc rfl
  have hrow : i = 4 * (i / 4) ∨ i = 4 * (i / 4) + 1 ∨ i = 4 * (i / 4) + 2 ∨ i = 4 * (i / 4) + 3 := by omega
  rcases hrow with hi | hi | hi | hi <;> rw [hi]
  · exact hu0.trans hv0.symm
  · exact hu1.trans hv1.symm
  · exact hu2.trans hv2.symm
  · exact hu3.trans hv3.symm

/-- Settles O31: each example is evaluated. -/
theorem publishedRoundExamples : Obligations.PublishedRoundExamples :=
  ⟨by decide, by decide, by decide, by decide, by decide⟩

/-! ## The mixing function (43_mix.md R134) -/

theorem mix_fst_bijective (cfg : Config) : Function.Bijective fun v => (mix cfg v).1 :=
  (encRound_bijective cfg.key).comp (encRound_bijective cfg.key)

theorem mix_snd_bijective (cfg : Config) : Function.Bijective fun v => (mix cfg v).2 :=
  (decRound_bijective cfg.key).comp (encRound_bijective cfg.key)

/-- Different states give pairs that differ in both blocks. -/
theorem mix_ne {u v : Block} (h : u ≠ v) (cfg : Config) :
    (mix cfg u).1 ≠ (mix cfg v).1 ∧ (mix cfg u).2 ≠ (mix cfg v).2 :=
  ⟨(mix_fst_bijective cfg).injective.ne h, (mix_snd_bijective cfg).injective.ne h⟩

/-- Between the two blocks the key cancels. -/
theorem mix_fst_xor_snd (cfg : Config) (v : Block) :
    (mix cfg v).1 ^^^ (mix cfg v).2 = encRound (encRound v cfg.key) 0 ^^^ decRound (encRound v cfg.key) 0 := by
  show encRound (encRound v cfg.key) cfg.key ^^^ decRound (encRound v cfg.key) cfg.key = _
  rw [encRound_eq_xor_key (encRound v cfg.key), decRound_eq_xor_key (encRound v cfg.key), BitVec.xor_assoc,
    BitVec.xor_comm cfg.key, BitVec.xor_assoc, BitVec.xor_self, BitVec.xor_zero]

/-- Settles O32: with one key both answers hold pairs of one mixing function, whose blocks are two rounds each. -/
theorem mixBlocksAreInjective : Obligations.MixBlocksAreInjective := by
  refine ⟨fun a b s t hkey => ?_, fun cfg => ⟨mix_fst_bijective cfg, mix_snd_bijective cfg⟩, mix_fst_xor_snd⟩
  obtain ⟨s', hexec, -, hrsp, -⟩ := exec_mix_reads a s
  obtain ⟨t', hexec', -, hrsp', -⟩ := exec_mix_reads b t
  rw [← mix_congr_key hkey] at hrsp'
  exact ⟨s', t', _, _, hexec, hrsp, hexec', hrsp', fun h => (mix_fst_bijective s.cfg).injective h,
    fun h => (mix_snd_bijective s.cfg).injective h⟩

/-- One step of the engine changes the state when `INC` is odd. -/
theorem advance_ne {cfg : Config} (hodd : cfg.incOdd = true) (v : Block) : advance cfg v ≠ v :=
  addStep_iterate_ne hodd v (k := 1) (by decide) (by decide)

/-- Settles O34: ADV changes the register, and different states mix to pairs that differ in both blocks. -/
theorem advanceFreshensBothBlocks : Obligations.AdvanceFreshensBothBlocks := by
  intro ss s hodd
  obtain ⟨t, hmix, hregs, hrsp, hframe⟩ := exec_mix_reads ss s
  obtain ⟨u, hadv, hvalue, -, -, hframe'⟩ := exec_adv_writes ss ss t
  obtain ⟨v, hmix', -, hrsp', -⟩ := exec_mix_reads ss u
  rw [hvalue, hregs ss, hframe'.cfg, hframe.cfg] at hrsp'
  obtain ⟨hfst, hsnd⟩ := mix_ne (advance_ne hodd (s.reg ss)).symm s.cfg
  exact ⟨t, u, v, _, _, hmix, hadv, hmix', hrsp, hrsp', hfst, hsnd⟩

/-! ## A derived stream and its parent (44_stream_derivation.md R149) -/

/-- Each lane of a derived state is that of its parent after `2^64 * m` steps, when `m` times `INC.lo` is the difference
of the high lanes. -/
theorem parallel_eq_advance_iterate {cfg : Config} {s : Block} {m : Nat}
    (hm : (lo cfg.inc).toNat * m % 2 ^ 64 = (hi (parallel s) - hi s).toNat) :
    parallel s = (advance cfg)^[2 ^ 64 * m] s := by
  apply block_ext
  · apply BitVec.eq_of_toNat_eq
    rw [lo_parallel, lo_advance_iterate, toNat_addStep_iterate, Nat.mul_assoc, Nat.add_mul_mod_self_left,
      Nat.mod_eq_of_lt (lo s).isLt]
  · apply BitVec.eq_of_toNat_eq
    rw [hi_advance_iterate_two_pow_mul, Nat.mul_comm m, ← Nat.add_mod_mod, hm, ← BitVec.toNat_add, add_sub_cancel]

/-- The distance of a derived state from its parent, in cycles of the low lane. -/
theorem exists_distance {cfg : Config} (hodd : cfg.incOdd = true) (s : Block) :
    ∃ m, 0 < m ∧ m < 2 ^ 64 ∧ (lo cfg.inc).toNat * m % 2 ^ 64 = (hi (parallel s) - hi s).toNat := by
  have hlo : (lo cfg.inc).getLsbD 0 = true := (getLsbD_zero_lo_inc cfg).trans hodd
  obtain ⟨m, hlt, hm⟩ :=
    Nat.exists_mul_mod_eq_of_coprime (hi (parallel s) - hi s).toNat (coprime_toNat_of_odd hlo) (by decide)
  rw [Nat.mod_eq_of_lt (hi (parallel s) - hi s).isLt] at hm
  refine ⟨m, Nat.pos_of_ne_zero fun hzero => hi_parallel_ne s ?_, hlt, hm⟩
  rw [hzero, Nat.mul_zero, Nat.zero_mod] at hm
  exact sub_eq_zero.mp (BitVec.eq_of_toNat_eq hm.symm)

/-- Within `2^64` steps a derived stream and its parent have no state in common. -/
theorem advance_iterate_ne_parallel {cfg : Config} (hodd : cfg.incOdd = true) (s : Block) {j k : Nat}
    (hj : j < 2 ^ 64) (hk : k < 2 ^ 64) : (advance cfg)^[j] s ≠ (advance cfg)^[k] (parallel s) := by
  obtain ⟨m, hpos, hlt, hm⟩ := exists_distance hodd s
  rw [parallel_eq_advance_iterate hm, ← Function.iterate_add_apply]
  intro hmeet
  have hmod : j ≡ k + 2 ^ 64 * m [MOD 2 ^ 128] := (addStep_iterate_eq_iff hodd s _ _).mp hmeet
  have heq : j = k + 2 ^ 64 * m := hmod.eq_of_lt_of_lt (by omega) (by omega)
  omega

/-- Settles O23: the distance solves a congruence with the odd `INC.lo`, and is not 0 because PAR changes the high
lane. -/
theorem parallelStreamDistance : Obligations.ParallelStreamDistance := by
  intro cfg hodd s
  refine ⟨?_, fun j k hj hk => advance_iterate_ne_parallel hodd s hj hk⟩
  obtain ⟨m, hpos, hlt, hm⟩ := exists_distance hodd s
  refine ⟨m, hpos, hlt, ?_, parallel_eq_advance_iterate hm⟩
  have hbound := (hi s).isLt
  rw [Nat.mul_comm, hm, BitVec.toNat_sub]
  congr 1
  omega

/-- Settles O24: the two streams have no state in common, and different states mix to different blocks. -/
theorem parallelStreamBlocksDiffer : Obligations.ParallelStreamBlocksDiffer :=
  fun cfg hodd s _ _ hj hk => mix_ne (advance_iterate_ne_parallel hodd s hj hk) cfg

end Sys2Proof.Machine
end

section
/-!
PROOFS. Runs of a list of commands (spec 20_memory.md R42, R48; 70_reset_and_hazards.md R183): each command takes two
steps, so a run follows the reference by induction on the list, from any ready state.
-/

namespace Sys2Proof.Machine

/-! ## Running (log 4, log 5) -/

theorem run_of_core_step {M : Host.Core} {s t : M.State} (h : M.step s = .next t) (k : Nat) :
    M.run (k + 1) s = M.run k t := by
  rw [Host.Core.run, h]

theorem run_of_step {s t : State} (h : step s = .next t) (k : Nat) :
    Host.Core.run core (k + 1) s = Host.Core.run core k t :=
  run_of_core_step (M := core) h k

/-- A command that is accepted and its response taken: two steps after which the core is ready again. -/
theorem command_then_take {s : State} {c : Command} {rest : List HostMove}
    (hscript : s.script = .command c :: .take :: rest) (hready : cmdReady s = true) :
    ∃ u, (∀ k, Host.Core.run core (k + 2) s = Host.Core.run core k u) ∧
      u.reg = (coreFunction s.cfg s.reg c).1 ∧ u.received = s.received ++ [(coreFunction s.cfg s.reg c).2] ∧
      u.script = rest ∧ cmdReady u = true ∧ u.cfg = s.cfg := by
  obtain ⟨t, hrun, hregs, hrsp, hframe⟩ := runCommand_effect c (s.withScript (.take :: rest))
  have haccept := (step_accept hscript hready).trans hrun
  obtain ⟨hlow, -⟩ := (cmdReady_iff s).mp hready
  have hrst : t.rst = false := hframe.rst.trans hlow
  obtain ⟨u, htake, hreceived, hnone, hkept, hcfg, hlevel, hleft⟩ :=
    takeDeliversResponse t _ rest hframe.script hrsp
  have htwo (k : Nat) := (run_of_step haccept (k + 1)).trans (run_of_step htake k)
  refine ⟨u, htwo, (funext hkept).trans hregs, ?_, hleft,
    (cmdReady_iff u).mpr ⟨hlevel.trans hrst, hnone⟩, hcfg.trans hframe.cfg⟩
  rw [hreceived, hframe.received]
  rfl

/-- A list of commands run from a ready state: the registers and the responses are the reference's. -/
theorem run_hostProgram (cs : List Command) {s : State} {rest : List HostMove}
    (hscript : s.script = hostProgram cs ++ rest) (hready : cmdReady s = true) :
    ∃ t, Host.Core.run core (2 * cs.length) s = .next t ∧ t.received = s.received ++ (coreRun s.cfg s.reg cs).2 ∧
      t.reg = (coreRun s.cfg s.reg cs).1 ∧ t.script = rest ∧ cmdReady t = true ∧ t.cfg = s.cfg := by
  induction cs generalizing s with
  | nil => exact ⟨s, rfl, (List.append_nil _).symm, rfl, hscript, hready, rfl⟩
  | cons c cs ih =>
    obtain ⟨u, hrun, hregs, hreceived, hscript', hready', hcfg⟩ := command_then_take hscript hready
    obtain ⟨t, hmore, hreceived', hregs', hleft, hready'', hcfg'⟩ := ih hscript' hready'
    rw [hcfg, hregs] at hreceived' hregs'
    refine ⟨t, (hrun (2 * cs.length)).trans hmore, ?_, hregs', hleft, hready'', hcfg'.trans hcfg⟩
    rw [hreceived', hreceived, List.append_assoc]
    rfl

/-- Settles O53: induction on the list, each command taking two steps. -/
theorem hostProgramRefinesCoreRun : Obligations.HostProgramRefinesCoreRun := by
  intro cs s rest hscript hready
  obtain ⟨t, hrun, hreceived, hregs, hleft, hready', hcfg⟩ := run_hostProgram cs hscript hready
  exact ⟨t, hrun, hreceived, congrFun hregs, hleft, hready', hcfg⟩

/-! ## Two cores with one list of commands (R183) -/

theorem length_coreRun (cfg : Config) (S : Regs) (cs : List Command) : (coreRun cfg S cs).2.length = cs.length := by
  induction cs generalizing S with
  | nil => rfl
  | cons c cs ih => rw [coreRun, List.length_cons, ih, List.length_cons]

/-- A run's registers and new responses, of the state in which it ends. -/
theorem coreRun_of_run_eq_next {cs : List Command} {s t : State} (hscript : s.script = hostProgram cs)
    (hready : cmdReady s = true) (hrun : Host.Core.run core (2 * cs.length) s = .next t) :
    t.reg = (coreRun s.cfg s.reg cs).1 ∧ t.received = s.received ++ (coreRun s.cfg s.reg cs).2 := by
  obtain ⟨t', hrun', hreceived, hregs, -⟩ :=
    run_hostProgram cs (hscript.trans (List.append_nil _).symm) hready
  obtain rfl : t' = t := Host.Outcome.next.inj (hrun'.symm.trans hrun)
  exact ⟨hregs, hreceived⟩

/-- Settles O54: both runs are the reference's from one configuration and one register file. -/
theorem equalCoresAnswerEqually : Obligations.EqualCoresAnswerEqually := by
  intro cs s t s' t' hcfg hregs hscript hscript' hready hready' hrun hrun'
  obtain ⟨hend, hreceived⟩ := coreRun_of_run_eq_next hscript hready hrun
  obtain ⟨hend', hreceived'⟩ := coreRun_of_run_eq_next hscript' hready' hrun'
  rw [hcfg, funext hregs] at hend hreceived
  exact ⟨congrFun (hend.trans hend'.symm), _, hreceived, hreceived', length_coreRun _ _ cs⟩

/-! ## The canonical stream (R42) -/

/-- The canonical bytes of one mixed value. -/
def mixedBytes (cfg : Config) (v : Block) : List Byte := ser (blockA cfg v) ++ ser (blockB cfg v)

/-- Only MIX has opcode 3. -/
theorem opOf_eq_three_iff {c : Command} {i : Instr} (h : decodeCommand c = .ok i) :
    opOf c.cw = 3 ↔ ∃ ss, i = .mix ss := by
  obtain ⟨hop, -⟩ := fields_as_numbers c.cw
  obtain ⟨hword, -⟩ := encodeWord_of_decode_ok h
  rw [← hop, ← hword]
  cases i <;> simp [encodeWord]

/-- What one command adds to the stream is the bytes of the values it mixes, one for MIX and none for any other. -/
theorem commandPart_coreFunction (cfg : Config) (S : Regs) (c : Command) :
    commandPart c (coreFunction cfg S c).2 =
      (if opOf c.cw = 3 ∧ ¬ IllegalWord c.cw then [S (regOf (ssOf c.cw))] else []).flatMap (mixedBytes cfg) := by
  cases hdec : decodeCommand c with
  | error why =>
    have hill : IllegalWord c.cw := illegalWord_of_decode_error hdec
    rw [commandPart_illegal hdec, if_neg fun h => h.2 hill]
    rfl
  | ok i =>
    have hlegal : ¬ IllegalWord c.cw := not_illegalWord_of_decode_ok hdec
    obtain ⟨-, hread⟩ := registers_of_decode_ok hdec
    by_cases hmix : ∃ ss, i = .mix ss
    · rw [if_pos ⟨(opOf_eq_three_iff hdec).mpr hmix, hlegal⟩]
      obtain ⟨ss, rfl⟩ := hmix
      rw [commandPart_mix hdec, coreFunction_of_decode_ok hdec, ← hread ss rfl, List.flatMap_singleton]
      rfl
    · rw [if_neg fun h => hmix ((opOf_eq_three_iff hdec).mp h.1),
        commandPart_other hdec fun ss hss => hmix ⟨ss, hss⟩]
      rfl

theorem streamBytes_coreRun (cfg : Config) (S : Regs) (cs : List Command) :
    streamBytes cs (coreRun cfg S cs).2 = (mixedValues cfg S cs).flatMap (mixedBytes cfg) := by
  induction cs generalizing S with
  | nil => rfl
  | cons c cs ih =>
    rw [coreRun, streamBytes_cons, ih, mixedValues, List.flatMap_append, commandPart_coreFunction]

/-- The reference on an encoded command gives the command's effect. -/
theorem coreFunction_encode (cfg : Config) (S : Regs) (i : Instr) :
    coreFunction cfg S (encode i) = (registersAfter cfg S i, responseTo cfg S i) :=
  coreFunction_of_decode_ok (decodeCommand_encode i) cfg S

/-- MIX commands leave the registers. -/
theorem coreRun_mixes (cfg : Config) (S : Regs) (sources : List SReg) :
    (coreRun cfg S (sources.map fun ss => encode (.mix ss))).1 = S := by
  induction sources with
  | nil => rfl
  | cons ss sources ih =>
    rw [List.map_cons, coreRun, coreFunction_encode]
    exact ih

/-- So each of them mixes what its source holds at the start. -/
theorem mixedValues_mixes (cfg : Config) (S : Regs) (sources : List SReg) :
    mixedValues cfg S (sources.map fun ss => encode (.mix ss)) = sources.map S := by
  induction sources with
  | nil => rfl
  | cons ss sources ih =>
    have hdec := decodeCommand_encode (.mix ss)
    have hop := (opOf_eq_three_iff hdec).mpr ⟨ss, rfl⟩
    obtain ⟨-, hread⟩ := registers_of_decode_ok hdec
    rw [List.map_cons, mixedValues, if_pos ⟨hop, not_illegalWord_of_decode_ok hdec⟩, ← hread ss rfl,
      coreFunction_encode]
    exact congrArg (S ss :: ·) ih

/-- Settles O56: the responses are the reference's, and each adds the bytes of what its command mixes. -/
theorem mixStreamInCommandOrder : Obligations.MixStreamInCommandOrder := by
  refine ⟨fun cs s rest hscript hready => ?_, fun sources s hscript hready hnone => ?_⟩
  · obtain ⟨t, hrun, hreceived, -⟩ := run_hostProgram cs hscript hready
    exact ⟨t, _, hrun, hreceived, length_coreRun _ _ cs, streamBytes_coreRun s.cfg s.reg cs⟩
  · obtain ⟨t, hrun, hreceived, hregs, -⟩ :=
      run_hostProgram _ (hscript.trans (List.append_nil _).symm) hready
    rw [List.length_map] at hrun
    rw [hnone, List.nil_append] at hreceived
    refine ⟨t, hrun, congrFun (hregs.trans (coreRun_mixes _ _ sources)), ?_⟩
    rw [hreceived, streamBytes_coreRun, mixedValues_mixes, List.flatMap_map]
    rfl

end Sys2Proof.Machine
end

section
/-!
PROOFS. The assembler (spec 30_encoding.md R80, R81) and the constraints on a configuration (00_scope.md R6).
-/

namespace Sys2Proof.Machine

/-! ## Well-formed operands (R80) -/

theorem registerFits_iff (r : Nat) : registerFits r = true ↔ r < 4 := decide_eq_true_iff

theorem blockFits_iff (v : Nat) : blockFits v = true ↔ v < 2 ^ 128 := decide_eq_true_iff

theorem laneFits_iff (v : Nat) : laneFits v = true ↔ v < 2 ^ 64 := decide_eq_true_iff

theorem assemble_of_wellFormed {line : AsmLine} (h : line.wellFormed = true) :
    assemble line = some (encode (expand line)) := if_pos h

theorem assemble_of_not_wellFormed {line : AsmLine} (h : ¬ line.wellFormed = true) : assemble line = none := if_neg h

/-- Lines that are both well formed or neither, and stand for one command, assemble alike. -/
theorem assemble_congr {line line' : AsmLine} (hfits : line.wellFormed = line'.wellFormed)
    (hexpand : expand line = expand line') : assemble line = assemble line' := by
  rw [assemble, assemble, hfits, hexpand]

/-! ## The pseudo-instructions (R81) -/

/-- The lanes of a block written as two lane numbers. -/
theorem lanes_ofNat {l h : Nat} (hl : l < 2 ^ 64) (hh : h < 2 ^ 64) :
    (lo (BitVec.ofNat 128 (h * 2 ^ 64 + l))).toNat = l ∧ (hi (BitVec.ofNat 128 (h * 2 ^ 64 + l))).toNat = h := by
  rw [toNat_lo, toNat_hi, BitVec.toNat_ofNat]
  omega

theorem assemble_seedLanes (sd : Nat) {l h : Nat} (hl : l < 2 ^ 64) (hh : h < 2 ^ 64) :
    assemble (.seedLanes sd l h) = assemble (.seed sd (h * 2 ^ 64 + l)) := by
  refine assemble_congr ?_ rfl
  have hblock : blockFits (h * 2 ^ 64 + l) = true := (blockFits_iff _).mpr (by omega)
  simp only [AsmLine.wellFormed, (laneFits_iff l).mpr hl, (laneFits_iff h).mpr hh, hblock, Bool.and_true]

theorem assemble_jumpBack (sd ss : Nat) {n : Nat} (hn : n < 2 ^ 64) :
    assemble (.jumpBack sd ss n) = assemble (.jump sd ss ((2 ^ 64 - n) % 2 ^ 64)) := by
  refine assemble_congr ?_ rfl
  have hback : laneFits ((2 ^ 64 - n) % 2 ^ 64) = true := (laneFits_iff _).mpr (Nat.mod_lt _ (by decide))
  simp only [AsmLine.wellFormed, (laneFits_iff n).mpr hn, hback]

/-- `JUMPB` jumps by the two's complement of its distance. -/
theorem expand_jumpBack (sd ss : Nat) {n : Nat} (hn : n < 2 ^ 64) :
    expand (.jumpBack sd ss n) = .jump (registerNumbered sd) (registerNumbered ss) (-BitVec.ofNat 64 n) := by
  rw [← ofNat_two_pow_sub, BitVec.toNat_ofNat, Nat.mod_eq_of_lt hn, expand]

/-- Settles O57: the expansions stand for the same commands and refuse the same operands; and the effects are those of
SEED and of JUMP by 0 and by a two's complement. -/
theorem pseudoInstructionsExact : Obligations.PseudoInstructionsExact := by
  refine ⟨fun sd => ⟨?_, ?_, ?_⟩, fun sd ss => ?_, fun sd n => ?_, fun sd l h hl hh => ?_, fun sd ss n hn => ?_,
    fun sd ss s => ?_⟩
  · exact assemble_congr (Bool.and_self _).symm rfl
  · exact assemble_congr (Bool.and_self _).symm rfl
  · exact assemble_congr (Bool.and_true _).symm rfl
  · exact assemble_congr (Bool.and_true _).symm rfl
  · exact assemble_congr (by simp only [AsmLine.wellFormed, Bool.and_self]) rfl
  · refine ⟨assemble_seedLanes sd hl hh, fun s => ?_⟩
    obtain ⟨t, hexec, hvalue, -⟩ :=
      exec_seed_writes (registerNumbered sd) (BitVec.ofNat 128 (h * 2 ^ 64 + l)) s
    exact ⟨t, hexec, by rw [hvalue]; exact lanes_ofNat hl hh⟩
  · refine ⟨assemble_jumpBack sd ss hn, fun s => ?_⟩
    rw [expand_jumpBack sd sd hn]
    exact exec_jump_back (registerNumbered sd) (registerNumbered sd) (registerNumbered ss) (BitVec.ofNat 64 n) s
  · obtain ⟨-, hcopies, -⟩ := jumpByZeroCopies
    obtain ⟨t, hmov, hcopy, -⟩ := hcopies (registerNumbered sd) (registerNumbered ss) s
    obtain ⟨u, hzero, hclear, -⟩ := exec_seed_writes (registerNumbered sd) 0 s
    exact ⟨t, u, hmov, hcopy, hzero, hclear⟩

/-! ## The command words (R80) -/

/-- The command word of register numbers that fit, as a number. -/
theorem commandWord_registerNumbered (op : BitVec 3) {sd ss : Nat} (hsd : sd < 4) (hss : ss < 4) :
    commandWord op (registerIndex (registerNumbered sd)) (registerIndex (registerNumbered ss)) =
      BitVec.ofNat 8 (op.toNat * 32 + 4 * sd + ss) := by
  rw [registerNumbered, registerNumbered, registerIndex_registerOf, registerIndex_registerOf, commandWord,
    BitVec.toNat_ofNat, BitVec.toNat_ofNat, Nat.mod_eq_of_lt hsd, Nat.mod_eq_of_lt hss, Nat.mul_comm sd]

/-- A jump distance is zero-extended into `DATA`. -/
theorem jumpData_ofNat {n : Nat} (hn : n < 2 ^ 64) : jumpData (BitVec.ofNat 64 n) = BitVec.ofNat 128 n := by
  rw [jumpData, mk, BitVec.toNat_ofNat, Nat.mod_eq_of_lt hn]
  simp

/-- A well-formed line assembles to the word and the operand of the command it stands for. -/
theorem assemble_eq_some {line : AsmLine} {cw : Byte} {data : Block} (h : line.wellFormed = true)
    (hword : encodeWord (expand line) = cw) (hdata : encodeData (expand line) = data) :
    assemble line = some ⟨cw, data⟩ := by
  rw [assemble_of_wellFormed h, encode, hword, hdata]

/-- Settles O58: with operands that fit a line is well formed and its word is the word of its fields; one operand that
does not fit makes it ill formed. -/
theorem assemblerEmitsCommandWords : Obligations.AssemblerEmitsCommandWords := by
  refine ⟨fun sd ss v n hsd hss hv hn => ?_, fun sd ss n => ⟨fun h => ?_, fun h => ?_, fun h => ⟨?_, ?_⟩,
    fun h => ⟨?_, ?_⟩⟩⟩
  · have hsdFits := (registerFits_iff sd).mpr hsd
    have hssFits := (registerFits_iff ss).mpr hss
    have hvFits := (blockFits_iff v).mpr hv
    have hnFits := (laneFits_iff n).mpr hn
    have hpair : (registerFits sd && registerFits ss) = true := Bool.and_eq_true_iff.mpr ⟨hsdFits, hssFits⟩
    have hboth := fun op => commandWord_registerNumbered op hsd hss
    have hsource := fun op => commandWord_registerNumbered op (sd := 0) (by decide) hss
    exact ⟨assemble_eq_some (Bool.and_eq_true_iff.mpr ⟨hsdFits, hvFits⟩)
        (commandWord_registerNumbered 1 hsd (ss := 0) (by decide)) rfl,
      assemble_eq_some hpair (hboth 2) rfl,
      assemble_eq_some hssFits (hsource 3) rfl,
      assemble_eq_some (Bool.and_eq_true_iff.mpr ⟨hpair, hnFits⟩) (hboth 4) (jumpData_ofNat hn),
      assemble_eq_some hpair (hboth 5) rfl,
      assemble_eq_some hssFits (hsource 6) rfl⟩
  all_goals
    apply assemble_of_not_wellFormed
    simp only [AsmLine.wellFormed, Bool.and_eq_true, registerFits_iff, blockFits_iff, laneFits_iff]
    omega

/-! ## Configurations (00_scope.md R6) -/

theorem nodup_map_range_iff {α : Type} (f : Nat → α) (n : Nat) :
    ((List.range n).map f).Nodup ↔ ∀ i j, i < j → j < n → f i ≠ f j := by
  rw [List.Nodup, List.pairwise_iff_getElem]
  simp only [List.length_map, List.length_range, List.getElem_map, List.getElem_range]
  exact ⟨fun h i j hij hj => h i j (hij.trans hj) hj hij, fun h i j _ hj hij => h i j hij hj⟩

/-- The bytes of the low lane are bytes 0 to 7 of the block. -/
theorem laneBytes_lo (v : Block) : laneBytes (lo v) = (List.range 8).map (byte v) :=
  List.map_congr_left fun _ h => extractLsb'_lo v (List.mem_range.mp h)

/-- The bytes of the high lane are bytes 8 to 15 of the block. -/
theorem laneBytes_hi (v : Block) : laneBytes (hi v) = (List.range 8).map fun i => byte v (8 + i) :=
  List.map_congr_left fun _ h => extractLsb'_hi v (List.mem_range.mp h)

/-- Oddness of `INC.lo`, on the number of the block. -/
theorem incOdd_iff (c : Config) : c.incOdd = true ↔ c.inc.toNat % 2 = 1 := by
  rw [Config.incOdd, BitVec.getLsbD, Nat.testBit_zero, decide_eq_true_iff]

theorem legal_iff (c : Config) : c.legal = true ↔ c.inc.toNat % 2 = 1 ∧
    ∀ i j, i < j → j < 8 → byte c.inc i ≠ byte c.inc j ∧ byte c.inc (8 + i) ≠ byte c.inc (8 + j) := by
  simp only [Config.legal, Config.incBytesDistinct, Bool.and_eq_true, decide_eq_true_iff, incOdd_iff, laneBytes_lo,
    laneBytes_hi, nodup_map_range_iff, forall_and]

/-- Settles O59: building succeeds exactly on a legal configuration. -/
theorem configurationsMeetConstraints : Obligations.ConfigurationsMeetConstraints := by
  refine ⟨fun inc key => ?_, fun inc key => ?_, by decide, rfl⟩
  · rw [← legal_iff ⟨inc, key⟩, Config.build]
    simp
  · exact ite_eq_or_eq _ _ _

end Sys2Proof.Machine
end
